-- ==== Sys2Proof/Word.lean ====
section
/-! DEFINITION. The word types of the block (spec 10_state.md R13, 30_encoding.md R36): bit 0 is the least
significant bit and the highest bit the most significant (00_scope.md R7). -/

namespace Sys2Proof

/-- A binary16 bit pattern, the source's HalfFloat (R29). -/
abbrev HalfWord := BitVec 16

/-- A binary32 bit pattern, the source's SingleFloat (R32). -/
abbrev SingleWord := BitVec 32

/-- A request word `q` of the request view (R36). -/
abbrev Request := BitVec 33

/-- A response word `y` of the request view (R36). -/
abbrev Response := BitVec 32

end Sys2Proof
end

