-- ==== Sys2Proof/Syntax.lean ====
section
/-! DEFINITION. The block's operations, one constructor per row of the opcode table (spec 30_encoding.md
section 3, 60_exceptions.md R80). -/

namespace Sys2Proof

/-- A decoded request (R37). -/
inductive Instr where
  /-- `TOFLOAT16`: the operand word is the binary32 input, all 32 bits of it (R38). -/
  | toFloat16 (a : SingleWord)
  /-- `TOFLOAT32`: `ignored` is `a[31:16]`, which no response depends on, and `h` is the binary16 input
  `a[15:0]` (R39). The ignored bits are kept so that a request's 33 bits can be written back. -/
  | toFloat32 (ignored : BitVec 16) (h : HalfWord)
deriving DecidableEq, Repr

end Sys2Proof
end

