-- ==== Sys2Proof/WellFormed.lean ====
section
/-! DEFINITION. Which instructions are well formed: all of them (spec 30_encoding.md R41), and which of
them the notation of R43 writes. -/

namespace Sys2Proof

/-- R41: no encoding is reserved and no operand is invalid, so every instruction is well formed. The
operand widths are checked by the types of `Instr`. -/
def Instr.wellFormed : Instr → Bool
  | .toFloat16 _ => true
  | .toFloat32 _ _ => true

/-- R43: `TOFLOAT32 <imm16>` writes the request with `a[31:16] = 0`, so a `TOFLOAT32` with other ignored
bits is a request that the notation does not write. -/
def Instr.hasNotation : Instr → Bool
  | .toFloat16 _ => true
  | .toFloat32 ignored _ => ignored == 0

end Sys2Proof
end

