-- ==== Sys2Proof/Decode.lean ====
section
/-! DEFINITION. Decoding and encoding of requests (spec 30_encoding.md R36 to R42 and section 3). -/

namespace Sys2Proof

/-- `op = q[32]` (R36). -/
def Request.op (q : Request) : Bool := q.getLsbD 32

/-- The operand word `a = q[31:0]` (R36). -/
def Request.operand (q : Request) : BitVec 32 := q.extractLsb' 0 32

/-- R37: `op = 0` is `TOFLOAT16` with operand `a` (R38), `op = 1` is `TOFLOAT32` with operand `a[15:0]`
(R39). Total on all 2^33 request words. -/
def decode (q : Request) : Instr :=
  if Request.op q then
    .toFloat32 ((Request.operand q).extractLsb' 16 16) ((Request.operand q).extractLsb' 0 16)
  else
    .toFloat16 (Request.operand q)

/-- Why a number is no request word. -/
inductive DecodeError where
  /-- It has a bit above bit 32; every request is exactly 33 bits (R42). -/
  | notARequestWord
deriving DecidableEq, Repr

/-- The request word a number stands for, if it is one (R36, R42). -/
def requestOfNat (w : Nat) : Option Request :=
  if w < 2 ^ 33 then some (BitVec.ofNat 33 w) else none

/-- Decoding of any number: a 33-bit word decodes by R37, a wider one is rejected by name. -/
def decodeNat (w : Nat) : Except DecodeError Instr :=
  match requestOfNat w with
  | some q => .ok (decode q)
  | none => .error .notARequestWord

/-- The request word of an instruction (R36): `op` above the operand word. -/
def encode : Instr → Request
  | .toFloat16 a => 0#1 ++ a
  | .toFloat32 ignored h => 1#1 ++ ignored ++ h

/-- The decoder on a word numbered as spec/opcode_table.json numbers it. The block has no bytes, and the
word is taken whole (20_memory.md R20); `nbits` is not read, because a request has 33 bits (R42). -/
def decodeTableWord (_nbits w : Nat) : Option Instr :=
  match decodeNat w with
  | .ok i => some i
  | .error _ => none

/-- The mnemonic of an instruction (R43). -/
def Instr.mnemonic : Instr → String
  | .toFloat16 _ => "TOFLOAT16"
  | .toFloat32 _ _ => "TOFLOAT32"

/-- One row of the opcode map: `q` matches when `q & mask = pattern`. -/
structure OpcodeRow where
  mnemonic : String
  pattern  : Request
  mask     : Request
deriving DecidableEq, Repr

/-- The opcode map of 30_encoding.md section 3. -/
def opcodeMap : List OpcodeRow :=
  [ { mnemonic := "TOFLOAT16", pattern := 0x000000000, mask := 0x100000000 },
    { mnemonic := "TOFLOAT32", pattern := 0x100000000, mask := 0x100000000 } ]

/-- A row of the opcode map matches a request word. -/
def OpcodeRow.matchesWord (r : OpcodeRow) (q : Request) : Bool := q &&& r.mask == r.pattern

end Sys2Proof
end

