-- ==== Sys2Proof/Config.lean ====
section
/-! DEFINITION. What is fixed when the block is built (spec 00_scope.md R3, R6), and the values the spec
leaves open (93_implementation_defined.md section 1). -/

namespace Sys2Proof

/-- The tie rule of narrowing, the block's one build-time option (R3, R6, R54). -/
inductive TieMode where
  | tiesAway
  | tiesEven
deriving DecidableEq, Repr

/-- The build parameters. `TIE_MODE` is the only open one and defaults to `TIES_AWAY` (R6); every other row
of R6's table is fixed and stands in the definitions that use it. -/
structure Config where
  tieMode : TieMode := .tiesAway
deriving DecidableEq, Repr

/-- Free value: what the n-th sample of `f16_out` reads while that output is unspecified (R84, R87). -/
opaque Config.unsettledF16Out : Nat → HalfWord

/-- Free value: what the n-th sample of `f32_out` reads while that output is unspecified (R84, R87). -/
opaque Config.unsettledF32Out : Nat → SingleWord

/-- Free value: the binary16 result in the response to a `TOFLOAT16` request that an unpowered block is asked;
`n` numbers such requests (R82, R84). -/
opaque Config.unpoweredF16Result : Nat → HalfWord

/-- Free value: the binary32 result in the response to a `TOFLOAT32` request that an unpowered block is asked;
`n` numbers such requests (R82, R84). -/
opaque Config.unpoweredF32Result : Nat → SingleWord

/-- `T_PD`, the propagation delay of the built circuit: left open by R87, read by no rule and by no
definition of this model. -/
opaque Config.propagationDelay : Nat

end Sys2Proof
end

