-- ==== Sys2Proof/Machine/Formats.lean ====
section
/-! DEFINITION. The data formats binary16 and binary32, the source's Bit-Layout Model (spec 30_encoding.md
R29 to R35): field accessors, categories, and the value a pattern denotes. -/

namespace Sys2Proof.Machine

/-! ### Fields (R29, R32): the shift-and-mask accessors of the spec -/

/-- `s = h[15]` (R29). -/
def sign16 (h : HalfWord) : Nat := (h.toNat >>> 15) &&& 0x1

/-- `e16 = h[14:10]`, biased by 15 (R29). -/
def exp16 (h : HalfWord) : Nat := (h.toNat >>> 10) &&& 0x1F

/-- `m16 = h[9:0]` (R29). -/
def man16 (h : HalfWord) : Nat := h.toNat &&& 0x3FF

/-- `s = f[31]` (R32). -/
def sign32 (f : SingleWord) : Nat := (f.toNat >>> 31) &&& 0x1

/-- `e32 = f[30:23]`, biased by 127 (R32). -/
def exp32 (f : SingleWord) : Nat := (f.toNat >>> 23) &&& 0xFF

/-- `m32 = f[22:0]` (R32). -/
def man32 (f : SingleWord) : Nat := f.toNat &&& 0x7FFFFF

/-- The 16-bit word with sign bit `s` above the 15-bit magnitude `mag` (R56: `(s << 15) | mag`). -/
def withSign16 (s mag : Nat) : HalfWord := BitVec.ofNat 16 ((s <<< 15) ||| mag)

/-- The 32-bit word with sign bit `s` above the 31-bit magnitude `r` (R67: `(s << 31) | r`). -/
def withSign32 (s r : Nat) : SingleWord := BitVec.ofNat 32 ((s <<< 31) ||| r)

/-! ### Categories (R30, R33) -/

/-- The five categories of a pattern. -/
inductive Category where
  | infinity
  | nan
  | zero
  | subnormal
  | normalized
deriving DecidableEq, Repr

/-- The category by exponent field `e`, all ones being `top`, and mantissa field `m` (R30, R33). -/
def categoryOf (top e m : Nat) : Category :=
  if e = top then
    if m = 0 then .infinity else .nan
  else if e = 0 then
    if m = 0 then .zero else .subnormal
  else .normalized

/-- R30. -/
def category16 (h : HalfWord) : Category := categoryOf 31 (exp16 h) (man16 h)

/-- R33. -/
def category32 (f : SingleWord) : Category := categoryOf 255 (exp32 f) (man32 f)

/-- A binary16 NaN is quiet when `m16[9] = 1`, else signalling (R30). No datapath reads this. -/
def isQuietNaN16 (h : HalfWord) : Bool := category16 h == .nan && h.getLsbD 9

/-- A binary16 NaN with `m16[9] = 0` is signalling (R30). No datapath reads this. -/
def isSignallingNaN16 (h : HalfWord) : Bool := category16 h == .nan && !h.getLsbD 9

/-- A binary32 NaN is quiet when `m32[22] = 1` (R33). No datapath reads this. -/
def isQuietNaN32 (f : SingleWord) : Bool := category32 f == .nan && f.getLsbD 22

/-- A binary32 NaN with `m32[22] = 0` is signalling (R33). No datapath reads this. -/
def isSignallingNaN32 (f : SingleWord) : Bool := category32 f == .nan && !f.getLsbD 22

/-- Neither infinity nor NaN. -/
def isFinite16 (h : HalfWord) : Bool := exp16 h != 31

/-- Neither infinity nor NaN. -/
def isFinite32 (f : SingleWord) : Bool := exp32 f != 255

/-! ### Values (R10, R31, R34): exact rationals, and the two infinities -/

/-- What a non-NaN pattern denotes (R10). Both zeros denote 0; their sign is in the pattern. -/
inductive Value where
  | finite (x : Rat)
  | infinite (negative : Bool)
deriving DecidableEq, Repr

/-- `(-1)^s`. -/
def signFactor (s : Nat) : Rat := if s = 0 then 1 else -1

/-- The magnitude of a finite binary16 with fields `e` and `m` (R31): `m × 2^-24` without the implicit
leading 1, else `(1 + m / 2^10) × 2^(e - 15)`. -/
def finiteMagnitude16 (e m : Nat) : Rat :=
  if e = 0 then m * (2 : Rat) ^ (-24 : Int)
  else (1 + m / 2 ^ 10) * (2 : Rat) ^ ((e : Int) - 15)

/-- The magnitude of a finite binary32 with fields `e` and `m` (R34): `m × 2^-149` without the implicit
leading 1, else `(1 + m / 2^23) × 2^(e - 127)`. -/
def finiteMagnitude32 (e m : Nat) : Rat :=
  if e = 0 then m * (2 : Rat) ^ (-149 : Int)
  else (1 + m / 2 ^ 23) * (2 : Rat) ^ ((e : Int) - 127)

/-- `val16(h)` (R31); none for a NaN, which denotes no value (R10). -/
def val16 (h : HalfWord) : Option Value :=
  match category16 h with
  | .nan => none
  | .infinity => some (.infinite (sign16 h == 1))
  | .zero => some (.finite 0)
  | .subnormal => some (.finite (signFactor (sign16 h) * finiteMagnitude16 (exp16 h) (man16 h)))
  | .normalized => some (.finite (signFactor (sign16 h) * finiteMagnitude16 (exp16 h) (man16 h)))

/-- `val32(f)` (R34); none for a NaN, which denotes no value (R10). -/
def val32 (f : SingleWord) : Option Value :=
  match category32 f with
  | .nan => none
  | .infinity => some (.infinite (sign32 f == 1))
  | .zero => some (.finite 0)
  | .subnormal => some (.finite (signFactor (sign32 f) * finiteMagnitude32 (exp32 f) (man32 f)))
  | .normalized => some (.finite (signFactor (sign32 f) * finiteMagnitude32 (exp32 f) (man32 f)))

/-! ### Named patterns (R35) -/

def half.posZero : HalfWord := 0x0000
def half.negZero : HalfWord := 0x8000
def half.posInf : HalfWord := 0x7C00
def half.negInf : HalfWord := 0xFC00
/-- The NaN sentinel of narrowing, sign 0. -/
def half.nanSentinel : HalfWord := 0x7E00
/-- The NaN sentinel of narrowing, sign 1. -/
def half.negNanSentinel : HalfWord := 0xFE00
def half.one : HalfWord := 0x3C00
def half.largestFinite : HalfWord := 0x7BFF
def half.smallestNormalized : HalfWord := 0x0400
def half.smallestSubnormal : HalfWord := 0x0001
def single.one : SingleWord := 0x3F800000
def single.posInf : SingleWord := 0x7F800000
def single.negInf : SingleWord := 0xFF800000
def single.negZero : SingleWord := 0x80000000
/-- `113 << 23`, the source's magic float constant, 2^-14. -/
def single.magic : SingleWord := 0x38800000

end Sys2Proof.Machine
end

