-- ==== Sys2Proof/Machine/Operands.lean ====
section
/-! DEFINITION. Operand assembly and response formation of the request view (spec 30_encoding.md R38 to
R40). -/

namespace Sys2Proof.Machine

/-- R38: the whole operand word is the binary32 input; no bit is ignored. -/
def narrowOperand (a : BitVec 32) : SingleWord := a

/-- R39: the binary16 input is `a[15:0]`; the bits `a[31:16]` are ignored. -/
def widenOperand (_ignored h : BitVec 16) : HalfWord := h

/-- R40: `y = zext_32(h)`. -/
def narrowResponse (h : HalfWord) : Response := h.zeroExtend 32

/-- R40: `y` is the whole binary32 result. -/
def widenResponse (f : SingleWord) : Response := f

end Sys2Proof.Machine
end

