-- ==== Sys2Proof/Machine/NarrowPath.lean ====
section
/-! DEFINITION. The fp32_to_fp16_converter datapath, `NARROW` (spec 40_narrow.md R45 to R56). -/

namespace Sys2Proof.Machine

/-- The six cases of narrowing (R47). -/
inductive NarrowCase where
  | zeroOrSubnormalIn
  | infOrNanIn
  | overflow
  | subnormalOut
  | underflowToZero
  | normalOut
deriving DecidableEq, Repr

/-- `newexp = e32 - 127 + 15`, a signed integer (R47, R8). -/
def rebias (e32 : Nat) : Int := (e32 : Int) - 127 + 15

/-- Case selection, the tests in the order of R47. -/
def narrowCase (e32 : Nat) : NarrowCase :=
  if e32 = 0 then .zeroOrSubnormalIn
  else if e32 = 255 then .infOrNanIn
  else if rebias e32 ≥ 31 then .overflow
  else if rebias e32 ≤ 0 then
    if 14 - rebias e32 ≤ 24 then .subnormalOut else .underflowToZero
  else .normalOut

/-- What is kept of the input before rounding: the retained field `t`, the round bit just below it, and
whether any bit below the round bit is set (R51, R53; the glossary of 00_scope.md). -/
structure Retained where
  t      : Nat
  rb     : Bool
  sticky : Bool
deriving DecidableEq, Repr

/-- Bit 0 of the retained field (R51, R53). -/
def Retained.lsb (r : Retained) : Bool := r.t &&& 1 == 1

/-- R51: `sh = 14 - newexp`, the implicit leading 1 restored, shifted right by `sh`. -/
def subnormalRetained (sh m32 : Nat) : Retained :=
  let M := 0x800000 ||| m32
  { t := M >>> sh
    rb := (M >>> (sh - 1)) &&& 1 == 1
    sticky := M &&& ((1 <<< (sh - 1)) - 1) != 0 }

/-- R53: exponent `newexp` above the top ten mantissa bits. -/
def normalRetained (newexp m32 : Nat) : Retained :=
  { t := (newexp <<< 10) ||| (m32 >>> 13)
    rb := (m32 >>> 12) &&& 1 == 1
    sticky := m32 &&& 0xFFF != 0 }

/-- `INC` (R54): ties away adds the round bit, ties to even needs a sticky bit or an odd field with it. -/
def roundIncrement (mode : TieMode) (r : Retained) : Nat :=
  match mode with
  | .tiesAway => r.rb.toNat
  | .tiesEven => (r.rb && (r.sticky || r.lsb)).toNat

/-- `mag = t + inc`, an ordinary addition whose carry may enter the exponent field (R55). -/
def roundRetained (mode : TieMode) (r : Retained) : Nat := r.t + roundIncrement mode r

/-- The 15-bit magnitude of `NARROW` from the input's exponent and mantissa fields (R48 to R53, R56). -/
def narrowMag (mode : TieMode) (e32 m32 : Nat) : Nat :=
  match narrowCase e32 with
  | .zeroOrSubnormalIn => 0x0000
  | .infOrNanIn => if m32 = 0 then 0x7C00 else 0x7E00
  | .overflow => 0x7C00
  | .subnormalOut => roundRetained mode (subnormalRetained (14 - rebias e32).toNat m32)
  | .underflowToZero => 0x0000
  | .normalOut => roundRetained mode (normalRetained (rebias e32).toNat m32)

/-- `NARROW(f)` under a tie mode (R56), the sign copied verbatim (R46). -/
def narrow (mode : TieMode) (f : SingleWord) : HalfWord :=
  withSign16 (sign32 f) (narrowMag mode (exp32 f) (man32 f))

end Sys2Proof.Machine
end

