-- ==== Sys2Proof/Machine/State.lean ====
section
/-! DEFINITION. What the machine holds. The block has no storage element (spec 10_state.md R11, R12, R17),
so State holds the build parameter, whether the block has power (60_exceptions.md R82), the levels of the four
ports (R13) and the request view (30_encoding.md R36): no register, flag, program counter or memory exists to
be held. One field, `draws`, is the model's own: it numbers the free values. -/

namespace Sys2Proof.Machine

/-- The machine as plain data.

An input port is `none` while it is undriven, unknown or changing; an output port is `none` while its level
is unspecified (70_reset_and_hazards.md R84). A sample of an unspecified output is a free value
(`State.sampleF16Out`, `State.sampleF32Out` in Machine/Ops.lean). -/
structure State where
  /-- The build parameters (00_scope.md R6). No step changes them (10_state.md R16). -/
  build    : Config
  /-- The block has power (60_exceptions.md R82, 70_reset_and_hazards.md R84). A condition of its supply, not a
  state of the block: R82 gives it no power states. -/
  powered  : Bool
  /-- The request word `q` presented to the block, if one is (30_encoding.md R36). -/
  request  : Option Request
  /-- Port `f32_in` (10_state.md R13). -/
  f32In    : Option SingleWord
  /-- Port `f16_in` (10_state.md R13). -/
  f16In    : Option HalfWord
  /-- Port `f16_out` (10_state.md R13). -/
  f16Out   : Option HalfWord
  /-- Port `f32_out` (10_state.md R13). -/
  f32Out   : Option SingleWord
  /-- The response word `y` of the request answered in the last step, if one was (30_encoding.md R36, R40). -/
  response : Option Response
  /-- The model's own counter of the free values used so far: the requests answered without power. -/
  draws    : Nat
deriving DecidableEq, Repr

/-- The block raises no exception and has no fault or stuck outcome for any request
(60_exceptions.md R70), so there is no reason to fault. Safe: an empty type lets no meaning fault. -/
inductive Fault where
deriving DecidableEq, Repr

/-- Why the model gives a request no meaning. -/
inductive Refusal where
  /-- Raised by an arm of `exec` whose instruction has no meaning yet. No arm raises it. Safe: the run stops
  where the hardware goes on. -/
  | notModelled (mnemonic : String)
deriving DecidableEq, Repr

/-- The machine at power-up, before anything is driven. The block has no reset (70_reset_and_hazards.md R83):
it has power, undriven inputs, unspecified outputs (R84), no request, and the default build (00_scope.md R6).
That nothing is driven or presented yet is log entry 5, and the counter's start is log entry 14. -/
def State.reset : State :=
  { build := { tieMode := .tiesAway }
    powered := true
    request := none
    f32In := none
    f16In := none
    f16Out := none
    f32Out := none
    response := none
    draws := 0 }

end Sys2Proof.Machine
end

