-- ==== Sys2Proof/Machine/WidenPath.lean ====
section
/-! DEFINITION. The fp16_to_fp32_converter datapath, `WIDEN` (spec 41_widen.md R61 to R67): the integer form
of R67, which the machine runs, and beside it the source's own algorithm of R62. -/

namespace Sys2Proof.Machine

/-- `msb_index(v)` for `v > 0`: the largest `i` with `v[i] = 1` (R8). -/
def msbIndex (v : Nat) : Nat := Nat.log2 v

/-- The 31-bit magnitude of `WIDEN` from the input's exponent and mantissa fields (R63 to R67). -/
def widenMag (e16 m16 : Nat) : Nat :=
  if e16 = 31 then (0xFF <<< 23) ||| (m16 <<< 13)
  else if e16 = 0 then
    if m16 = 0 then 0
    else ((msbIndex m16 + 103) <<< 23) ||| ((m16 <<< (23 - msbIndex m16)) &&& 0x7FFFFF)
  else ((e16 + 112) <<< 23) ||| (m16 <<< 13)

/-- `WIDEN(h)` (R67). `TIE_MODE` does not affect it. -/
def widen (h : HalfWord) : SingleWord :=
  withSign32 (sign16 h) (widenMag (exp16 h) (man16 h))

/-! ### The source's algorithm (R62) -/

/-- The magnitude of a finite binary32 pattern in units of 2^-149 (R34). -/
def unitsOf32 (f : Nat) : Nat :=
  if (f >>> 23) &&& 0xFF = 0 then f &&& 0x7FFFFF
  else (0x800000 ||| (f &&& 0x7FFFFF)) <<< (((f >>> 23) &&& 0xFF) - 1)

/-- The non-negative binary32 pattern whose value is `n` units of 2^-149, for an `n` that binary32
represents exactly (R34). -/
def encodeUnits32 (n : Nat) : Nat :=
  if n < 0x800000 then n
  else ((msbIndex n - 22) <<< 23) ||| ((n >>> (msbIndex n - 23)) &&& 0x7FFFFF)

/-- `FSUB32(a, b)` of R62, for non-negative finite `a` not below `b` whose difference is representable: the
exact difference, and `+0` when it is zero (92_eei_decisions.md D8). -/
def fsub32 (a b : Nat) : Nat := encodeUnits32 (unitsOf32 a - unitsOf32 b)

/-- R62, line by line: the exponent is captured from the shifted word before the rebias (90_conflicts.md
C5). -/
def widenSource (h : HalfWord) : SingleWord :=
  let shifted := (h.toNat &&& 0x7FFF) <<< 13
  let ex := shifted &&& (0x7C00 <<< 13)
  let rebiased := shifted + ((127 - 15) <<< 23)
  let adjusted :=
    if ex = 0x7C00 <<< 13 then rebiased + ((128 - 16) <<< 23)
    else if ex = 0 then fsub32 (rebiased + (1 <<< 23)) (113 <<< 23)
    else rebiased
  BitVec.ofNat 32 (adjusted ||| ((h.toNat &&& 0x8000) <<< 16))

end Sys2Proof.Machine
end

