-- ==== Sys2Proof/Machine/Ops.lean ====
section
/-! DEFINITION. The named operations on State: evaluating a datapath on its port pair, answering a request,
settling, and what the user of the block can do to it (spec 10_state.md R13, 30_encoding.md R44,
60_exceptions.md R82, 70_reset_and_hazards.md R84, R87). Taking an exception and returning from one are not among them: the block
has no trap entry and no trap return (60_exceptions.md R74, R75). -/

namespace Sys2Proof.Machine

/-! ### The two datapaths -/

/-- The level of an output that would settle to `v`: unspecified while the block has no power (R82, R84). -/
def State.poweredLevel {α : Type} (s : State) (v : Option α) : Option α := if s.powered then v else none

/-- The input `f` stands on `f32_in`, and `f16_out` has settled to `NARROW(f)` if there is power (R13, R82,
R84). -/
def State.evalNarrow (f : SingleWord) (s : State) : State :=
  { s with f32In := some f, f16Out := s.poweredLevel (some (narrow s.build.tieMode f)) }

/-- The input `h` stands on `f16_in`, and `f32_out` has settled to `WIDEN(h)` if there is power (R13, R82,
R84). -/
def State.evalWiden (h : HalfWord) (s : State) : State :=
  { s with f16In := some h, f32Out := s.poweredLevel (some (widen h)) }

/-- The response of a request (R36, R40). -/
def State.respond (y : Response) (s : State) : State :=
  { s with response := some y }

/-- A free value has been used; the next one has another number. -/
def State.countDraw (s : State) : State := { s with draws := s.draws + 1 }

/-- The response of `TOFLOAT16` is formed from what `f16_out` shows (R40, R44): its level, or any value where
that is unspecified for want of power (R82, R84; log entry 14). -/
def State.respondNarrow (s : State) : State :=
  match s.f16Out with
  | some h => s.respond (narrowResponse h)
  | none => (s.respond (narrowResponse (Config.unpoweredF16Result s.draws))).countDraw

/-- The response of `TOFLOAT32` is formed from what `f32_out` shows (R40, R44), as for `TOFLOAT16`. -/
def State.respondWiden (s : State) : State :=
  match s.f32Out with
  | some f => s.respond (widenResponse f)
  | none => (s.respond (widenResponse (Config.unpoweredF32Result s.draws))).countDraw

/-- Both outputs follow their inputs; an output whose input is undriven is unspecified, and so are both
without power (R82, R84). The request, if any, is taken, and no response stands until one is given. -/
def State.settle (s : State) : State :=
  { s with
    request := none
    f16Out := s.poweredLevel (s.f32In.map (narrow s.build.tieMode))
    f32Out := s.poweredLevel (s.f16In.map widen)
    response := none }

/-! ### Sampling an output (R84, R87) -/

/-- The n-th sample of `f16_out`: its level, or any value while it is unspecified. -/
def State.sampleF16Out (n : Nat) (s : State) : HalfWord := s.f16Out.getD (Config.unsettledF16Out n)

/-- The n-th sample of `f32_out`: its level, or any value while it is unspecified. -/
def State.sampleF32Out (n : Nat) (s : State) : SingleWord := s.f32Out.getD (Config.unsettledF32Out n)

/-! ### What the user of the block does, between steps -/

/-- An action on the block's inputs or its supply (R13, R14, R36, R82). -/
inductive PortEvent where
  /-- Hold `f` on `f32_in`. -/
  | driveF32In (f : SingleWord)
  /-- Stop driving `f32_in`, or let it change. -/
  | releaseF32In
  /-- Hold `h` on `f16_in`. -/
  | driveF16In (h : HalfWord)
  /-- Stop driving `f16_in`, or let it change. -/
  | releaseF16In
  /-- Present the request `q`. -/
  | present (q : Request)
  /-- Take the power away (R82). -/
  | powerDown
  /-- Give the power back (R82). -/
  | powerUp
deriving DecidableEq, Repr

/-- A new level on `f32_in`. An input that keeps its level stays stable; a changed one leaves its output
unspecified until it settles (R84, R87). -/
def State.setF32In (v : Option SingleWord) (s : State) : State :=
  if s.f32In = v then s else { s with f32In := v, f16Out := none }

/-- A new level on `f16_in`, as for `f32_in` (R84, R87). -/
def State.setF16In (v : Option HalfWord) (s : State) : State :=
  if s.f16In = v then s else { s with f16In := v, f32Out := none }

/-- The effect of a user's action. On a port it reaches only the input it names and that input's output (R24).

The spec has no pending request and does not say what becomes of one when another is presented before a step
answers it. DESIGN CHOICE (log entry 15): the later word replaces the earlier one, which gets no response and
never reaches its port.

Without power both outputs are unspecified; when it returns they stay so until they settle (R82, R84). -/
def State.applyEvent (s : State) : PortEvent → State
  | .driveF32In f => s.setF32In (some f)
  | .releaseF32In => s.setF32In none
  | .driveF16In h => s.setF16In (some h)
  | .releaseF16In => s.setF16In none
  | .present q => { s with request := some q }
  | .powerDown => { s with powered := false, f16Out := none, f32Out := none }
  | .powerUp => { s with powered := true }

end Sys2Proof.Machine
end

