-- ==== Sys2Proof/Machine/Narrow.lean ====
section
/-! DEFINITION. The meaning of `TOFLOAT16` (spec 40_narrow.md R56). -/

namespace Sys2Proof.Machine

/-- `TOFLOAT16`: `f16_out` and the response are `NARROW` of the operand (R38, R40, R44, R56). No flag and no
exception (R15, R70). Without power the output is unspecified and the result any value (R82). -/
def execToFloat16 (a : SingleWord) (s : State) : Host.Outcome State Fault Refusal :=
  .next (s.evalNarrow (narrowOperand a)).respondNarrow

end Sys2Proof.Machine
end

