-- ==== Sys2Proof/Machine/Widen.lean ====
section
/-! DEFINITION. The meaning of `TOFLOAT32` (spec 41_widen.md R67). -/

namespace Sys2Proof.Machine

/-- `TOFLOAT32`: `f32_out` and the response are `WIDEN` of the low half of the operand (R39, R40, R44, R67).
No rounding, no flag and no exception (R69, R15, R70). Without power the output is unspecified and the result
any value (R82). -/
def execToFloat32 (ignored : BitVec 16) (h : HalfWord) (s : State) :
    Host.Outcome State Fault Refusal :=
  .next (s.evalWiden (widenOperand ignored h)).respondWiden

end Sys2Proof.Machine
end

