-- ==== Sys2Proof/Machine/Dispatch.lean ====
section
/-! DEFINITION. One arm per operation (spec 30_encoding.md R37). -/

namespace Sys2Proof.Machine

def exec (i : Instr) (s : State) : Host.Outcome State Fault Refusal :=
  match i with
  | .toFloat16 a => Sys2Proof.Machine.execToFloat16 a s
  | .toFloat32 ignored h => Sys2Proof.Machine.execToFloat32 ignored h s

end Sys2Proof.Machine
end

