-- ==== Sys2Proof/Machine/Step.lean ====
section
/-! DEFINITION. One step of the machine: one settled evaluation of the block (spec 30_encoding.md R36, R44,
70_reset_and_hazards.md R84, R87). -/

namespace Sys2Proof.Machine

/-- Both outputs settle; then the presented request, if there is one, is decoded and answered. The block
fetches nothing: a request comes from whatever drives the inputs (10_state.md R14). -/
def step (s : State) : Host.Outcome State Fault Refusal :=
  match s.request with
  | none => .next s.settle
  | some q => exec (decode q) s.settle

/-- `s` with the request word `w` presented, so that the next step answers it. A number with a bit above
bit 32 is no request (30_encoding.md R42), and then none is presented. -/
def State.withFetchWord (s : State) (_nbits w : Nat) : State :=
  { s with request := requestOfNat w }

end Sys2Proof.Machine
end

