-- ==== Sys2Proof/Machine/Flags.lean ====
section
/-! DEFINITION. The block writes no flag: it has no status flag, condition code or IEEE exception flag
(spec 10_state.md R15). The predicates below say when an IEEE-754 condition of 60_exceptions.md R71's table
arises. No state records them and no meaning reads them. -/

namespace Sys2Proof.Machine

/-- The IEEE-754 conditions of R71's table. -/
inductive IeeeCondition where
  | invalidOperation
  | overflow
  | underflow
  | inexact
  | divideByZero
deriving DecidableEq, Repr

/-- The 31-bit magnitude of a binary32 pattern. -/
def magnitude32 (f : SingleWord) : Nat := f.toNat &&& 0x7FFFFFFF

/-- R71, overflow: narrowing a finite input of magnitude at least 65520, the pattern `0x477FF000`
(40_narrow.md R58). -/
def narrowOverflows (f : SingleWord) : Bool := isFinite32 f && magnitude32 f ≥ 0x477FF000

/-- R71, underflow: narrowing a finite nonzero input to a subnormal or zero result. -/
def narrowUnderflows (mode : TieMode) (f : SingleWord) : Bool :=
  isFinite32 f && magnitude32 f != 0 && exp16 (narrow mode f) == 0

/-- R71, inexact: narrowing discards nonzero bits. In the overflow case the leading 1 itself is lost.

R71 does not say whether a NaN that loses nonzero payload bits (R49) counts. DESIGN CHOICE (log entry 10): it
does not, for infinities and NaNs have no value that a result could miss. -/
def narrowIsInexact (f : SingleWord) : Bool :=
  match narrowCase (exp32 f) with
  | .zeroOrSubnormalIn => man32 f != 0
  | .infOrNanIn => false
  | .overflow => true
  | .subnormalOut =>
    let r := subnormalRetained (14 - rebias (exp32 f)).toNat (man32 f)
    r.rb || r.sticky
  | .underflowToZero => true
  | .normalOut =>
    let r := normalRetained (rebias (exp32 f)).toNat (man32 f)
    r.rb || r.sticky

/-- R71: a condition arises when `f` is narrowed. -/
def narrowArises (mode : TieMode) (f : SingleWord) : IeeeCondition → Bool
  | .invalidOperation => isSignallingNaN32 f
  | .overflow => narrowOverflows f
  | .underflow => narrowUnderflows mode f
  | .inexact => narrowIsInexact f
  | .divideByZero => false

/-- R71: a condition arises when `h` is widened; widening is exact, so only invalid operation can. -/
def widenArises (h : HalfWord) : IeeeCondition → Bool
  | .invalidOperation => isSignallingNaN16 h
  | .overflow => false
  | .underflow => false
  | .inexact => false
  | .divideByZero => false

end Sys2Proof.Machine
end

