-- ==== Sys2Proof/Safety.lean ====
section
/-! DEFINITION. What claims about runs are stated in: an output shows nothing but the conversion of the input
that stands on its port (spec 70_reset_and_hazards.md R84, R87), requests in a row, and the user's actions
interleaved with steps (20_memory.md R24, 10_state.md R14). -/

namespace Sys2Proof.Machine

/-- Every specified output level is the conversion of the level on its own input port, and the block has power:
no output is stale (60_exceptions.md R82, R84, R87). -/
def State.Coherent (s : State) : Prop :=
  (∀ h, s.f16Out = some h → s.powered = true ∧ ∃ f, s.f32In = some f ∧ h = narrow s.build.tieMode f) ∧
  (∀ f, s.f32Out = some f → s.powered = true ∧ ∃ h, s.f16In = some h ∧ f = widen h)

/-- The outputs follow the inputs (R84): with power every driven input has its conversion on the output and every
undriven one leaves its output unspecified; without power both outputs are unspecified (R82). -/
def State.Settled (s : State) : Prop :=
  (s.powered = true → s.f16Out = s.f32In.map (narrow s.build.tieMode) ∧ s.f32Out = s.f16In.map widen) ∧
  (s.powered = false → s.f16Out = none ∧ s.f32Out = none)

/-- What happens at the block: the user acts on an input, or the block evaluates. -/
inductive Action where
  | event (e : PortEvent)
  | step
deriving DecidableEq, Repr

/-- Actions in order, stopping at a fault or refusal. -/
def runActions (s : State) : List Action → Host.Outcome State Fault Refusal
  | [] => .next s
  | .event e :: rest => runActions (s.applyEvent e) rest
  | .step :: rest =>
    match Machine.step s with
    | .next t => runActions t rest
    | .fault r => .fault r
    | .refused r => .refused r

/-- Requests presented one after another, one step each: the response each one gets. -/
def responsesOf (s : State) : List Request → List (Option Response)
  | [] => []
  | q :: rest =>
    match Machine.step (s.applyEvent (.present q)) with
    | .next t => t.response :: responsesOf t rest
    | .fault _ => []
    | .refused _ => []

/-- The response the spec gives a request on its own, on a block with power (30_encoding.md R37 to R40). -/
def responseTo (mode : TieMode) (q : Request) : Response :=
  match decode q with
  | .toFloat16 a => narrowResponse (narrow mode (narrowOperand a))
  | .toFloat32 ignored h => widenResponse (widen (widenOperand ignored h))

/-! ### How an operation completes -/

/-- `TOFLOAT16` on `a` completes from `s` with the binary16 result `h` on `f16_out` and in the response
(40_narrow.md R56, 30_encoding.md R40). -/
def NarrowAnswers (s : State) (a : SingleWord) (h : HalfWord) : Prop :=
  ∃ t, exec (.toFloat16 a) s = .next t ∧ t.f16Out = some h ∧ t.response = some (h.zeroExtend 32)

/-- `TOFLOAT32` on `h`, with ignored operand bits `i`, completes from `s` with the binary32 result `f` on
`f32_out` and in the response (41_widen.md R67, 30_encoding.md R40). -/
def WidenAnswers (s : State) (i : BitVec 16) (h : HalfWord) (f : SingleWord) : Prop :=
  ∃ t, exec (.toFloat32 i h) s = .next t ∧ t.f32Out = some f ∧ t.response = some f

/-! ### What narrowing rounds to (40_narrow.md R57) -/

/-- The candidate set of R57: 0, every positive binary16 finite value, and `2^16`, which stands for
infinity. -/
def RoundingCandidate (c : Rat) : Prop :=
  c = 0 ∨ (∃ h, val16 h = some (.finite c) ∧ 0 < c) ∨ c = 2 ^ 16

/-- The member of the candidate set that a non-NaN result encodes: its magnitude, or `2^16` for an
infinity. -/
def candidateOf (h : HalfWord) : Rat :=
  match val16 h with
  | some (.finite y) => |y|
  | some (.infinite _) => 2 ^ 16
  | none => 2 ^ 16

end Sys2Proof.Machine
end

