-- ==== Sys2Proof/Certificates/Slice0/Obligations.lean ====
section
/-! DEFINITION. The statements for the provers. -/

open Sys2Proof Sys2Proof.Machine

/-! ### Requests: decoding and encoding -/

/-- Decoding is total and selected by `q[32]` alone: `op = 0` is `TOFLOAT16` with the whole operand word,
`op = 1` is `TOFLOAT32` with the low half as its input. The request format is the spec's own decision D4
(30_encoding.md R36 to R39). That the high half is kept in the instruction is the model's choice, log
entry 8. -/
def Obligations.DecodeIsSelectedByOperationBit : Prop :=
  ∀ q : Request,
    (q.getLsbD 32 = false → decode q = .toFloat16 (q.extractLsb' 0 32)) ∧
    (q.getLsbD 32 = true → decode q = .toFloat32 (q.extractLsb' 16 16) (q.extractLsb' 0 16))

/-- The seven request words of 95_test_vectors.md section 2.3 decode to the requests that section names. That the
ignored bits, here 0, `0xFFFF`, `0xABCD` and `0x7FFF`, are kept in the instruction is the model's choice, log
entry 8. -/
def Obligations.SpecRequestWordsDecode : Prop :=
  decode 0x03F800000 = .toFloat16 0x3F800000 ∧
  decode 0x0FF800000 = .toFloat16 0xFF800000 ∧
  decode 0x100003C00 = .toFloat32 0x0000 0x3C00 ∧
  decode 0x1FFFF3C00 = .toFloat32 0xFFFF 0x3C00 ∧
  decode 0x1ABCD8000 = .toFloat32 0xABCD 0x8000 ∧
  decode 0x000000000 = .toFloat16 0x00000000 ∧
  decode 0x17FFF7E00 = .toFloat32 0x7FFF 0x7E00

/-- Decoding the encoding of a well-formed instruction gives it back, every operand bit included. -/
def Obligations.DecodeOfEncodeIsIdentity : Prop :=
  ∀ i : Instr, i.wellFormed = true → decode (encode i) = i

/-- Encoding the decoding of any of the 2^33 request words gives the word back. It does so for the ignored bits
of `TOFLOAT32` because the instruction keeps them, which is the model's choice, log entry 8. -/
def Obligations.EncodeOfDecodeIsIdentity : Prop :=
  ∀ q : Request, encode (decode q) = q

/-- The two rows of the opcode map cover every request word, no word matches two rows, and the row that
matches carries the mnemonic of what the decoder reads (30_encoding.md section 3; its closing sentence is
marked derived there). -/
def Obligations.OpcodeMapCoversEveryWordOnce : Prop :=
  ∀ q : Request, ∃ r ∈ opcodeMap, r.matchesWord q = true ∧ r.mnemonic = (decode q).mnemonic ∧
    ∀ r' ∈ opcodeMap, r'.matchesWord q = true → r' = r

/-! ### Steps -/

/-- A step runs the decoded request: it settles both outputs, takes the request, and is then `exec` of what
the word decodes to; presenting a table word does the same. That a request is taken by its step, and that
both outputs settle in it, are the model's choices, log entries 2 and 4; that they do so only with power is
60_exceptions.md R82. -/
def Obligations.StepRunsTheDecodedRequest : Prop :=
  ∀ (s : State) (q : Request),
    (s.request = some q →
      step s = exec (decode q)
        { build := s.build, powered := s.powered, request := none, f32In := s.f32In, f16In := s.f16In,
          f16Out := if s.powered then s.f32In.map (narrow s.build.tieMode) else none,
          f32Out := if s.powered then s.f16In.map widen else none,
          response := none, draws := s.draws }) ∧
    (∀ (nbits w : Nat) (i : Instr), decodeTableWord nbits w = some i →
      step (s.withFetchWord nbits w) = exec i s.settle)

/-- A step with no request presented completes, lets the outputs follow the inputs, and changes nothing else; an
undriven input leaves its output unspecified (70_reset_and_hazards.md R84, decisions D10, D11), and without
power both outputs are unspecified (60_exceptions.md R82). Choices and inferences of the model: that such a step
is one settled evaluation (log entry 4), that it completes (log entry 7), and that no response stands after it
(log entry 2). -/
def Obligations.IdleStepSettlesTheOutputs : Prop :=
  ∀ s : State, s.request = none →
    ∃ t, step s = .next t ∧ t.build = s.build ∧ t.powered = s.powered ∧ t.request = none ∧
      t.f32In = s.f32In ∧ t.f16In = s.f16In ∧ t.response = none ∧ t.draws = s.draws ∧
      (s.powered = true →
        (∀ f, s.f32In = some f → t.f16Out = some (narrow s.build.tieMode f)) ∧
        (∀ h, s.f16In = some h → t.f32Out = some (widen h)) ∧
        (s.f32In = none → t.f16Out = none) ∧ (s.f16In = none → t.f32Out = none)) ∧
      (s.powered = false → t.f16Out = none ∧ t.f32Out = none)

/-- After any step from any state both outputs follow their inputs, or are unspecified for want of power
(60_exceptions.md R82, 70_reset_and_hazards.md R84, decisions D10, D11; one step is one settled evaluation, log
entry 4). -/
def Obligations.EveryStepLeavesTheOutputsSettled : Prop :=
  ∀ s t : State, step s = .next t → t.Settled

/-- No output is ever stale: coherence of the outputs with their inputs and with the supply is kept by every step
and by every action of the block's user (60_exceptions.md R82, 70_reset_and_hazards.md R84, R87, decisions D10,
D11; what an action does to a port and when is log entries 4 and 15). -/
def Obligations.EveryActionKeepsTheOutputsCoherent : Prop :=
  ∀ s : State, s.Coherent →
    (∀ t, step s = .next t → t.Coherent) ∧ (∀ e : PortEvent, (s.applyEvent e).Coherent)

/-- Along any interleaving of steps and user's actions, from any coherent state, the run does not stop, the
outputs stay coherent and the build parameter keeps its value (10_state.md R16 and 70_reset_and_hazards.md
R84, decisions D3, D10, D11; the build's place in State is log entry 1, steps and actions are log entries 4, 7,
14 and 15). -/
def Obligations.EveryHistoryStaysCoherentAndKeepsTheBuild : Prop :=
  ∀ (s : State) (as : List Action), s.Coherent →
    ∃ t, runActions s as = .next t ∧ t.Coherent ∧ t.build = s.build

/-- At power-up the build is the default `TIES_AWAY` (00_scope.md R6, decision D3), the outputs are
unspecified and coherent (70_reset_and_hazards.md R84). That nothing is driven and no request is presented
is the model's choice, log entry 5; that there is power and no free value has been used is log entry 14. -/
def Obligations.ResetIsCoherentWithTheDefaultBuild : Prop :=
  State.reset.Coherent ∧ State.reset.build.tieMode = .tiesAway ∧ State.reset.powered = true ∧
    State.reset.f16Out = none ∧ State.reset.f32Out = none ∧ State.reset.f32In = none ∧
    State.reset.f16In = none ∧ State.reset.request = none ∧ State.reset.response = none ∧
    State.reset.draws = 0

/-- Every request word and every operand has a result from every state: nothing faults, is refused, or, on a
block with power, leaves the result undefined (30_encoding.md R41, 60_exceptions.md R70). That a request asked
without power is answered too, as the first clause says, is the model's choice, log entry 14. -/
def Obligations.EveryRequestHasAResult : Prop :=
  (∀ (q : Request) (s : State), s.request = some q →
    ∃ t y, step s = .next t ∧ t.response = some y) ∧
  (∀ (a : SingleWord) (s : State), ∃ t, exec (.toFloat16 a) s = .next t ∧
    (s.powered = true → ∃ h, t.f16Out = some h)) ∧
  (∀ (i h : BitVec 16) (s : State), ∃ t, exec (.toFloat32 i h) s = .next t ∧
    (s.powered = true → ∃ f, t.f32Out = some f))

/-- R82: a block that is powered down has unspecified outputs until power and inputs return. Taking the power
away leaves both outputs unspecified; they stay so through every step and every action until the power is
given back; giving it back does not itself change an output, and the next step lets them follow the inputs
again. Choices and inferences of the model: how the supply stands in State, and that a request asked meanwhile
completes (log entry 14); that one step settles the outputs (log entry 4); that a step without a request
completes (log entry 7). -/
def Obligations.UnpoweredOutputsAreUnspecified : Prop :=
  (∀ s : State, (s.applyEvent .powerDown).powered = false ∧
    (s.applyEvent .powerDown).f16Out = none ∧ (s.applyEvent .powerDown).f32Out = none) ∧
  (∀ (s : State) (as : List Action), s.powered = false → s.f16Out = none → s.f32Out = none →
    Action.event .powerUp ∉ as →
    ∃ t, runActions s as = .next t ∧ t.powered = false ∧ t.f16Out = none ∧ t.f32Out = none) ∧
  (∀ s : State, (s.applyEvent .powerUp).powered = true ∧
    (s.applyEvent .powerUp).f16Out = s.f16Out ∧ (s.applyEvent .powerUp).f32Out = s.f32Out) ∧
  (∀ s : State, s.request = none → ∃ t, step (s.applyEvent .powerUp) = .next t ∧
    t.f16Out = s.f32In.map (narrow s.build.tieMode) ∧ t.f32Out = s.f16In.map widen)

/-! ### The two instructions as a whole -/

/-- `TOFLOAT16` completes on every operand in every state. With power the input stands on `f32_in`, `NARROW` of
it on `f16_out`, and the response is the result with 16 zero bits above (40_narrow.md R56 with 30_encoding.md
R38, R40 and R44, decisions D2, D4, D12; the view of a request as driving its port is log entry 2). Without
power the output is unspecified (60_exceptions.md R82) and the result a free value, log entry 14. -/
def Obligations.ToFloat16NextState : Prop :=
  ∀ (a : SingleWord) (s : State),
    (s.powered = true → exec (.toFloat16 a) s = .next
      { build := s.build, powered := true, request := s.request, f32In := some a, f16In := s.f16In,
        f16Out := some (narrow s.build.tieMode a), f32Out := s.f32Out,
        response := some (0#16 ++ narrow s.build.tieMode a), draws := s.draws }) ∧
    (s.powered = false → exec (.toFloat16 a) s = .next
      { build := s.build, powered := false, request := s.request, f32In := some a, f16In := s.f16In,
        f16Out := none, f32Out := s.f32Out,
        response := some (0#16 ++ Config.unpoweredF16Result s.draws), draws := s.draws + 1 })

/-- `TOFLOAT32` completes on every operand in every state. With power the input stands on `f16_in`, `WIDEN` of it
on `f32_out` and in the response (41_widen.md R67 with 30_encoding.md R39, R40 and R44, decisions D2, D4, D12;
the view of a request as driving its port is log entry 2). Without power the output is unspecified
(60_exceptions.md R82) and the response a free value, log entry 14. -/
def Obligations.ToFloat32NextState : Prop :=
  ∀ (i h : BitVec 16) (s : State),
    (s.powered = true → exec (.toFloat32 i h) s = .next
      { build := s.build, powered := true, request := s.request, f32In := s.f32In, f16In := some h,
        f16Out := s.f16Out, f32Out := some (widen h), response := some (widen h), draws := s.draws }) ∧
    (s.powered = false → exec (.toFloat32 i h) s = .next
      { build := s.build, powered := false, request := s.request, f32In := s.f32In, f16In := some h,
        f16Out := s.f16Out, f32Out := none,
        response := some (Config.unpoweredF32Result s.draws), draws := s.draws + 1 })

/-- Frame of `TOFLOAT16`: the other datapath's ports, the build, the supply and the presented request are
unchanged, and with power no free value is used. The block has no register, flag or memory that could change (10_state.md R11, R15, R18). -/
def Obligations.ToFloat16ChangesOnlyItsOwnPorts : Prop :=
  ∀ (a : SingleWord) (s t : State), exec (.toFloat16 a) s = .next t →
    t.f16In = s.f16In ∧ t.f32Out = s.f32Out ∧ t.build = s.build ∧ t.request = s.request ∧
      t.powered = s.powered ∧ (s.powered = true → t.draws = s.draws)

/-- Frame of `TOFLOAT32`: the other datapath's ports, the build, the supply and the presented request are
unchanged, and with power no free value is used. The block has no register, flag or memory that could change (10_state.md R11, R15, R18). -/
def Obligations.ToFloat32ChangesOnlyItsOwnPorts : Prop :=
  ∀ (i h : BitVec 16) (s t : State), exec (.toFloat32 i h) s = .next t →
    t.f32In = s.f32In ∧ t.f16Out = s.f16Out ∧ t.build = s.build ∧ t.request = s.request ∧
      t.powered = s.powered ∧ (s.powered = true → t.draws = s.draws)

/-! ### Formats -/

/-- R29: the fields of a binary16 word are bits 15, 14:10 and 9:0, read by shift and mask, and the word is
their concatenation. -/
def Obligations.HalfWordFieldsAreItsBits : Prop :=
  ∀ h : HalfWord,
    sign16 h = (h.extractLsb 15 15).toNat ∧ exp16 h = (h.extractLsb 14 10).toNat ∧
    man16 h = (h.extractLsb 9 0).toNat ∧
    h = BitVec.ofNat 1 (sign16 h) ++ BitVec.ofNat 5 (exp16 h) ++ BitVec.ofNat 10 (man16 h)

/-- R32: the fields of a binary32 word are bits 31, 30:23 and 22:0, read by shift and mask, and the word is
their concatenation. -/
def Obligations.SingleWordFieldsAreItsBits : Prop :=
  ∀ f : SingleWord,
    sign32 f = (f.extractLsb 31 31).toNat ∧ exp32 f = (f.extractLsb 30 23).toNat ∧
    man32 f = (f.extractLsb 22 0).toNat ∧
    f = BitVec.ofNat 1 (sign32 f) ++ BitVec.ofNat 8 (exp32 f) ++ BitVec.ofNat 23 (man32 f)

/-- The categories of R30 and R33 in terms of the value: NaNs have no value, infinities are the infinite value of
their sign, zeros have value 0, a finite binary16 is normalized exactly when its magnitude is at least 2^-14, and
a finite binary32 exactly when its magnitude is at least 2^-126 (the binary32 subnormal value is general
knowledge in the spec, R34; the model's value functions are log entry 9). -/
def Obligations.CategoriesAgreeWithValues : Prop :=
  (∀ h : HalfWord, (category16 h = .nan ↔ val16 h = none) ∧
    (category16 h = .infinity ↔ val16 h = some (.infinite (decide (sign16 h = 1)))) ∧
    (∀ x, val16 h = some (.finite x) →
      (category16 h = .zero ↔ x = 0) ∧
      (category16 h = .normalized ↔ (1 : Rat) / 2 ^ 14 ≤ |x|))) ∧
  (∀ f : SingleWord, (category32 f = .nan ↔ val32 f = none) ∧
    (category32 f = .infinity ↔ val32 f = some (.infinite (decide (sign32 f = 1)))) ∧
    (∀ x, val32 f = some (.finite x) →
      (category32 f = .zero ↔ x = 0) ∧
      (category32 f = .normalized ↔ (1 : Rat) / 2 ^ 126 ≤ |x|)))

/-- The bounds R31 derives: no finite binary16 exceeds 65504 in magnitude and `0x7BFF` reaches it, no nonzero
one is below 2^-24 and `0x0001` reaches it, and `0x0400` is 2^-14. -/
def Obligations.HalfFiniteMagnitudeBounds : Prop :=
  (∀ (h : HalfWord) (x : Rat), val16 h = some (.finite x) →
    |x| ≤ 65504 ∧ (x ≠ 0 → (1 : Rat) / 2 ^ 24 ≤ |x|)) ∧
  val16 0x7BFF = some (.finite 65504) ∧ val16 0x0001 = some (.finite (1 / 2 ^ 24)) ∧
  val16 0x0400 = some (.finite (1 / 2 ^ 14))

/-! ### TOFLOAT16, case by case

Each result is that of a block with power; without it the outputs are unspecified (60_exceptions.md R82), which
`UnpoweredOutputsAreUnspecified` and the next-state statements say. -/

/-- R47: the tests on the exponent field and on the signed `newexp = e32 - 127 + 15`, in their order, select
the case. -/
def Obligations.NarrowCaseByTheTestsOnNewexp : Prop :=
  ∀ e32 : Nat, e32 ≤ 255 →
    (e32 = 0 → narrowCase e32 = .zeroOrSubnormalIn) ∧
    (e32 = 255 → narrowCase e32 = .infOrNanIn) ∧
    (e32 ≠ 0 → e32 ≠ 255 →
      let newexp : Int := (e32 : Int) - 127 + 15
      newexp ≤ 142 ∧ -111 ≤ newexp ∧
      (31 ≤ newexp → narrowCase e32 = .overflow) ∧
      (newexp ≤ 0 → 14 - newexp ≤ 24 → narrowCase e32 = .subnormalOut) ∧
      (newexp ≤ 0 → 24 < 14 - newexp → narrowCase e32 = .underflowToZero) ∧
      (0 < newexp → newexp < 31 → narrowCase e32 = .normalOut))

/-- The table R47 derives from its tests: the `e32` range and the `newexp` range of each case. -/
def Obligations.NarrowCaseByExponentRange : Prop :=
  ∀ e32 : Nat, e32 ≤ 255 →
    (narrowCase e32 = .zeroOrSubnormalIn ↔ e32 = 0) ∧
    (narrowCase e32 = .underflowToZero ↔ 1 ≤ e32 ∧ e32 ≤ 101) ∧
    (narrowCase e32 = .subnormalOut ↔ 102 ≤ e32 ∧ e32 ≤ 112) ∧
    (narrowCase e32 = .normalOut ↔ 113 ≤ e32 ∧ e32 ≤ 142) ∧
    (narrowCase e32 = .overflow ↔ 143 ≤ e32 ∧ e32 ≤ 254) ∧
    (narrowCase e32 = .infOrNanIn ↔ e32 = 255) ∧
    (narrowCase e32 = .underflowToZero → -111 ≤ rebias e32 ∧ rebias e32 ≤ -11) ∧
    (narrowCase e32 = .subnormalOut → -10 ≤ rebias e32 ∧ rebias e32 ≤ 0) ∧
    (narrowCase e32 = .normalOut → 1 ≤ rebias e32 ∧ rebias e32 ≤ 30) ∧
    (narrowCase e32 = .overflow → 31 ≤ rebias e32 ∧ rebias e32 ≤ 142)

/-- R46: bit 15 of the result is bit 31 of the input, in every case and under both tie modes. -/
def Obligations.NarrowCopiesTheSign : Prop :=
  ∀ (a : SingleWord) (s : State), s.powered = true →
    ∃ h, NarrowAnswers s a h ∧ h.getLsbD 15 = a.getLsbD 31

/-- R48: an input with exponent field 0 gives a signed zero, whatever its mantissa and the tie mode. -/
def Obligations.NarrowFlushesZeroAndSubnormalInputs : Prop :=
  ∀ (a : SingleWord) (s : State), s.powered = true → exp32 a = 0 →
    NarrowAnswers s a (if a.getLsbD 31 then 0x8000 else 0x0000)

/-- R49: an infinity gives the infinity of its sign, and a NaN, quiet or signalling and whatever its
payload, gives the sentinel of its sign. -/
def Obligations.NarrowOfInfinityAndNaN : Prop :=
  ∀ (a : SingleWord) (s : State), s.powered = true → exp32 a = 255 →
    (man32 a = 0 → NarrowAnswers s a (if a.getLsbD 31 then 0xFC00 else 0x7C00)) ∧
    (man32 a ≠ 0 → NarrowAnswers s a (if a.getLsbD 31 then 0xFE00 else 0x7E00))

/-- R50: an input with `newexp >= 31` that is no infinity or NaN gives a signed infinity, whatever its
mantissa. -/
def Obligations.NarrowOverflowGivesInfinity : Prop :=
  ∀ (a : SingleWord) (s : State), s.powered = true → exp32 a ≠ 255 →
    31 ≤ (exp32 a : Int) - 127 + 15 →
    NarrowAnswers s a (if a.getLsbD 31 then 0xFC00 else 0x7C00)

/-- R51 with the increment of R54 (decision D3): in the subnormal range the significand with its implicit 1
is shifted right by `sh = 14 - newexp` and rounded on the bits shifted out. The retained field has exponent
0, and at `sh = 24` it is 0 with the round bit set. -/
def Obligations.NarrowToSubnormalRounds : Prop :=
  ∀ (a : SingleWord) (s : State) (sh : Nat), s.powered = true →
    (sh : Int) = 14 - ((exp32 a : Int) - 127 + 15) →
    14 ≤ sh → sh ≤ 24 →
    let M := 2 ^ 23 + man32 a
    let t := M / 2 ^ sh
    let rb := M / 2 ^ (sh - 1) % 2
    let inc :=
      if s.build.tieMode = .tiesAway then rb
      else if rb = 1 ∧ (M % 2 ^ (sh - 1) ≠ 0 ∨ t % 2 = 1) then 1 else 0
    t ≤ 0x3FF ∧ (sh = 24 → t = 0 ∧ rb = 1) ∧
      NarrowAnswers s a (BitVec.ofNat 16 (sign32 a * 2 ^ 15 + (t + inc)))

/-- R52: an input with `newexp <= -11` that is no zero or subnormal gives a signed zero under both tie
modes. -/
def Obligations.NarrowUnderflowGivesZero : Prop :=
  ∀ (a : SingleWord) (s : State), s.powered = true → exp32 a ≠ 0 →
    (exp32 a : Int) - 127 + 15 ≤ -11 →
    NarrowAnswers s a (if a.getLsbD 31 then 0x8000 else 0x0000)

/-- R53 with the increment of R54 (decision D3): in the normal range the exponent is `newexp`, the mantissa
is the top ten bits, and rounding looks at bit 12 and the bits below it. -/
def Obligations.NarrowToNormalRounds : Prop :=
  ∀ (a : SingleWord) (s : State) (newexp : Nat), s.powered = true →
    (newexp : Int) = (exp32 a : Int) - 127 + 15 →
    1 ≤ newexp → newexp ≤ 30 →
    let m := man32 a
    let t := newexp * 2 ^ 10 + m / 2 ^ 13
    let rb := m / 2 ^ 12 % 2
    let inc :=
      if s.build.tieMode = .tiesAway then rb
      else if rb = 1 ∧ (m % 2 ^ 12 ≠ 0 ∨ m / 2 ^ 13 % 2 = 1) then 1 else 0
    0x0400 ≤ t ∧ t ≤ 0x7BFF ∧
      NarrowAnswers s a (BitVec.ofNat 16 (sign32 a * 2 ^ 15 + (t + inc)))

/-- What R50 and R52 derive of magnitudes: the overflow case holds every finite input of magnitude at least
65536, and the underflow case only inputs of magnitude below 2^-25. -/
def Obligations.OverflowAndUnderflowCasesByMagnitude : Prop :=
  ∀ (f : SingleWord) (x : Rat), val32 f = some (.finite x) →
    (narrowCase (exp32 f) = .overflow ↔ 65536 ≤ |x|) ∧
    (narrowCase (exp32 f) = .underflowToZero → |x| < 1 / 2 ^ 25)

/-- The bounds on the carry that R55 derives: rounding in the subnormal range stops at `0x0400`, in the
normal range at `0x7C00`, so a number never narrows to a NaN and the sign is never reached
(90_conflicts.md C7). -/
def Obligations.RoundingCarryIsBounded : Prop :=
  ∀ (mode : TieMode) (f : SingleWord),
    (exp32 f ≤ 112 → (narrow mode f).toNat % 2 ^ 15 ≤ 0x0400) ∧
    (exp32 f ≤ 254 → (narrow mode f).toNat % 2 ^ 15 ≤ 0x7C00) ∧
    (category32 f ≠ .nan → category16 (narrow mode f) ≠ .nan)

/-- The two tie modes (R54, decision D3) differ on the exact ties with an even retained field and nowhere
else, and there `TIES_AWAY` is one unit larger in magnitude (90_conflicts.md C1). -/
def Obligations.TieModesDifferExactlyOnEvenTies : Prop :=
  ∀ f : SingleWord,
    (narrow .tiesAway f ≠ narrow .tiesEven f ↔
      (113 ≤ exp32 f ∧ exp32 f ≤ 142 ∧ man32 f % 2 ^ 14 = 2 ^ 12) ∨
      (102 ≤ exp32 f ∧ exp32 f ≤ 112 ∧
        (2 ^ 23 + man32 f) % 2 ^ (127 - exp32 f) = 2 ^ (125 - exp32 f))) ∧
    (narrow .tiesAway f ≠ narrow .tiesEven f →
      (narrow .tiesAway f).toNat = (narrow .tiesEven f).toNat + 1)

/-- What R57 derives of `NARROW` under `TIES_AWAY`: of all candidates the result is the nearest to the
input's magnitude, the larger one on an exact tie, with the input's sign, and it is no NaN. -/
def Obligations.NarrowIsNearestTiesAway : Prop :=
  ∀ (f : SingleWord) (x : Rat), val32 f = some (.finite x) → 1 ≤ exp32 f →
    let c := candidateOf (narrow .tiesAway f)
    sign16 (narrow .tiesAway f) = sign32 f ∧ category16 (narrow .tiesAway f) ≠ .nan ∧
      RoundingCandidate c ∧
      ∀ d, RoundingCandidate d →
        |(|x| - c)| ≤ |(|x| - d)| ∧ (|(|x| - c)| = |(|x| - d)| → d ≤ c)

/-- What R57 derives of `NARROW` under `TIES_EVEN`: of all candidates the result is the nearest to the
input's magnitude, on an exact tie the one whose mantissa field is even, with the input's sign, and it is no
NaN. -/
def Obligations.NarrowIsNearestTiesEven : Prop :=
  ∀ (f : SingleWord) (x : Rat), val32 f = some (.finite x) → 1 ≤ exp32 f →
    let c := candidateOf (narrow .tiesEven f)
    sign16 (narrow .tiesEven f) = sign32 f ∧ category16 (narrow .tiesEven f) ≠ .nan ∧
      RoundingCandidate c ∧
      ∀ d, RoundingCandidate d →
        |(|x| - c)| ≤ |(|x| - d)| ∧
        (|(|x| - c)| = |(|x| - d)| → d = c ∨ man16 (narrow .tiesEven f) % 2 = 0)

/-- The thresholds R57 derives: a finite input narrows to infinity exactly from 65520 on, and to zero exactly
below 2^-25, with 2^-25 itself included under `TIES_EVEN` (90_conflicts.md C3). -/
def Obligations.NarrowInfinityAndZeroThresholds : Prop :=
  ∀ (f : SingleWord) (x : Rat), val32 f = some (.finite x) →
    (∀ mode, category16 (narrow mode f) = .infinity ↔ 65520 ≤ |x|) ∧
    (category16 (narrow .tiesAway f) = .zero ↔ |x| < 1 / 2 ^ 25) ∧
    (category16 (narrow .tiesEven f) = .zero ↔ |x| ≤ 1 / 2 ^ 25)

/-- `NARROW` is monotone in the pattern from `+0` to `+∞` (derived in R58), and negating the input negates
the output. -/
def Obligations.NarrowIsMonotoneAndOdd : Prop :=
  (∀ (mode : TieMode) (f g : SingleWord), f.toNat ≤ g.toNat → g.toNat ≤ 0x7F800000 →
    (narrow mode f).toNat ≤ (narrow mode g).toNat) ∧
  (∀ (mode : TieMode) (f : SingleWord), narrow mode (f ^^^ 0x80000000) = narrow mode f ^^^ 0x8000)

/-- The boundary table R58 derives: each row gives an output and the smallest positive input that yields at
least it, under `TIES_AWAY` and under `TIES_EVEN`. -/
def Obligations.NarrowBoundaryInputs : Prop :=
  ∀ row ∈ ([(0x0001, 0x33000000, 0x33000001), (0x0002, 0x33C00000, 0x33C00000),
      (0x0003, 0x34200000, 0x34200001), (0x0200, 0x37FFC000, 0x37FFC000),
      (0x03FF, 0x387FA000, 0x387FA001), (0x0400, 0x387FE000, 0x387FE000),
      (0x0401, 0x38801000, 0x38801001), (0x3C00, 0x3F7FF000, 0x3F7FF000),
      (0x3C01, 0x3F801000, 0x3F801001), (0x3C02, 0x3F803000, 0x3F803000),
      (0x7BFF, 0x477FD000, 0x477FD001), (0x7C00, 0x477FF000, 0x477FF000)] : List (Nat × Nat × Nat)),
    ∀ g : SingleWord, g.toNat ≤ 0x7F800000 →
      (row.1 ≤ (narrow .tiesAway g).toNat ↔ row.2.1 ≤ g.toNat) ∧
      (row.1 ≤ (narrow .tiesEven g).toNat ↔ row.2.2 ≤ g.toNat)

/-- The scaling R59 derives: in the subnormal range the magnitude is `M × 2^(newexp - 38)`, so in units of
2^-24 it is `M / 2^(14 - newexp)`; at `newexp = -10` it lies in `[2^-25, 2^-24)` and at `newexp = -11` in
`[2^-26, 2^-25)`. -/
def Obligations.SubnormalShiftBoundIsExact : Prop :=
  ∀ (f : SingleWord) (x : Rat), val32 f = some (.finite x) →
    (102 ≤ exp32 f → exp32 f ≤ 112 →
      |x| = ((2 ^ 23 + man32 f : Nat) : Rat) * (2 : Rat) ^ ((exp32 f : Int) - 112 - 38) ∧
      |x| * 2 ^ 24 = ((2 ^ 23 + man32 f : Nat) : Rat) / 2 ^ (126 - exp32 f)) ∧
    (exp32 f = 102 → 1 / 2 ^ 25 ≤ |x| ∧ |x| < 1 / 2 ^ 24) ∧
    (exp32 f = 101 → 1 / 2 ^ 26 ≤ |x| ∧ |x| < 1 / 2 ^ 25)

/-! ### TOFLOAT32, case by case, on a block with power -/

/-- The closed form of R63 (derived there from R62): a normalized input keeps its mantissa, and its exponent
field gains 112. -/
def Obligations.WidenOfNormalized : Prop :=
  ∀ (i : BitVec 16) (h : HalfWord) (s : State), s.powered = true → 1 ≤ exp16 h → exp16 h ≤ 30 →
    WidenAnswers s i h
      (BitVec.ofNat 32 (sign16 h * 2 ^ 31 + (exp16 h + 112) * 2 ^ 23 + man16 h * 2 ^ 13))

/-- The closed form of R64 (derived there from R62): an infinity or NaN keeps its sign and payload, and a
signalling NaN stays signalling (the quiet bit's place is general knowledge in the spec, R30, R33). -/
def Obligations.WidenOfInfinityAndNaN : Prop :=
  ∀ (i : BitVec 16) (h : HalfWord) (s : State), s.powered = true → exp16 h = 31 →
    WidenAnswers s i h (BitVec.ofNat 32 (sign16 h * 2 ^ 31 + 255 * 2 ^ 23 + man16 h * 2 ^ 13)) ∧
    isSignallingNaN32 (widen h) = isSignallingNaN16 h ∧ isQuietNaN32 (widen h) = isQuietNaN16 h

/-- The closed form of R65 (derived there from R62 and decision D8): each zero widens to the zero of its
sign. -/
def Obligations.WidenOfZero : Prop :=
  ∀ (i : BitVec 16) (h : HalfWord) (s : State), s.powered = true → exp16 h = 0 → man16 h = 0 →
    WidenAnswers s i h (if h.getLsbD 15 then 0x80000000 else 0x00000000)

/-- The closed form of R66 (derived there from R62): a subnormal input with leading one at `p` becomes a
normalized binary32 with exponent field `p + 103` and the bits below the leading one at the top of the
mantissa. -/
def Obligations.WidenOfSubnormal : Prop :=
  ∀ (i : BitVec 16) (h : HalfWord) (s : State) (p : Nat), s.powered = true → exp16 h = 0 →
    2 ^ p ≤ man16 h → man16 h < 2 ^ (p + 1) →
    p ≤ 9 ∧
    WidenAnswers s i h
      (BitVec.ofNat 32
        (sign16 h * 2 ^ 31 + (p + 103) * 2 ^ 23 + (man16 h - 2 ^ p) * 2 ^ (23 - p))) ∧
    category32 (widen h) = .normalized

/-- `TOFLOAT32` computes the source's algorithm: R67's integer form equals R62's transcription, with the
float subtraction exact and its zero `+0` (decision D8; the model's `fsub32` is log entry 11), on every
input. -/
def Obligations.WidenEqualsTheSourceAlgorithm : Prop :=
  ∀ (i : BitVec 16) (h : HalfWord) (s : State), s.powered = true →
    WidenAnswers s i h (widenSource h)

/-- Property 1 that R68 derives: widening is exact. The value is the same, a NaN stays a NaN, and the sign is
kept. -/
def Obligations.WidenIsExact : Prop :=
  ∀ h : HalfWord, val32 (widen h) = val16 h ∧ sign32 (widen h) = sign16 h

/-- R69: widening does not round, has no error outcome, and its result depends on `h` alone, not on the state,
the build or the ignored operand bits. -/
def Obligations.WidenDependsOnItsInputAlone : Prop :=
  ∀ (i i' : BitVec 16) (h : HalfWord) (s s' : State), s.powered = true → s'.powered = true →
    ∃ t t' f,
    exec (.toFloat32 i h) s = .next t ∧ exec (.toFloat32 i' h) s' = .next t' ∧
    t.f32Out = some f ∧ t.response = some f ∧ t'.f32Out = some f ∧ t'.response = some f ∧
    val32 f = val16 h

/-- Property 2 that R68 derives: distinct inputs widen to distinct outputs. -/
def Obligations.WidenIsInjective : Prop :=
  ∀ h k : HalfWord, widen h = widen k → h = k

/-- Property 3 that R68 derives: the output is never a binary32 subnormal; its exponent field is 0 only for a
zero and 255 only for an infinity or NaN. -/
def Obligations.WidenNeverGivesASubnormal : Prop :=
  ∀ h : HalfWord, category32 (widen h) ≠ .subnormal ∧
    (exp32 (widen h) = 0 ↔ category16 h = .zero) ∧
    (exp32 (widen h) = 255 ↔ category16 h = .infinity ∨ category16 h = .nan)

/-- Property 4 that R68 derives, as two steps of the machine: narrowing what widening answered gives the
input back under both tie modes, but for a NaN other than the sentinel, which comes back as the sentinel of
its sign (90_conflicts.md C2). -/
def Obligations.WidenThenNarrowRoundTrip : Prop :=
  ∀ (i : BitVec 16) (h : HalfWord) (s : State), s.powered = true → ∃ t f,
    exec (.toFloat32 i h) s = .next t ∧ t.response = some f ∧
    ((exp16 h ≠ 31 ∨ man16 h = 0 ∨ man16 h = 0x200) → NarrowAnswers t f h) ∧
    ((exp16 h = 31 ∧ man16 h ≠ 0 ∧ man16 h ≠ 0x200) →
      NarrowAnswers t f (BitVec.ofNat 16 (sign16 h * 2 ^ 15 + 0x7E00)) ∧
      h ≠ BitVec.ofNat 16 (sign16 h * 2 ^ 15 + 0x7E00))

/-! ### Requests against each other -/

/-- R39 (decision D12): the input of a `TOFLOAT32` request is `q[15:0]`, and two such requests with equal low
halves have the same effect from every state, whatever their high halves. -/
def Obligations.IgnoredOperandBitsHaveNoEffect : Prop :=
  ∀ (s : State) (q r : Request), q.getLsbD 32 = true → r.getLsbD 32 = true →
    q.extractLsb' 0 16 = r.extractLsb' 0 16 →
    ∃ t, step { s with request := some q } = .next t ∧
      step { s with request := some r } = .next t ∧
      (s.powered = true → t.response = some (widen (q.extractLsb' 0 16)))

/-- R38 and R40 (decisions D4, D12), with the output ports of R44 (decisions D2, D4): the response to a `TOFLOAT16` request is `NARROW` of all of `q[31:0]`
below 16 zero bits, and that to a `TOFLOAT32` request is all of `WIDEN(q[15:0])`. The output ports show the
same results, because a request drives its operand's port, which is the model's choice, log entry 2. -/
def Obligations.ResponseIsTheResultOfTheOperand : Prop :=
  ∀ (s : State) (q : Request), s.powered = true → s.request = some q →
    (q.getLsbD 32 = false → ∃ t y, step s = .next t ∧ t.response = some y ∧
      y.extractLsb' 0 16 = narrow s.build.tieMode (q.extractLsb' 0 32) ∧ y.extractLsb' 16 16 = 0 ∧
      t.f16Out = some (narrow s.build.tieMode (q.extractLsb' 0 32))) ∧
    (q.getLsbD 32 = true → ∃ t, step s = .next t ∧
      t.response = some (widen (q.extractLsb' 0 16)) ∧ t.f32Out = t.response)

/-- R24: in any sequence of requests, mixed over the two datapaths and from any state with power, each request
gets the response it would get alone. -/
def Obligations.EachRequestIsAnsweredAsIfAlone : Prop :=
  ∀ (s : State) (qs : List Request), s.powered = true →
    responsesOf s qs = qs.map fun q => some (responseTo s.build.tieMode q)

/-- The two datapaths can be used in either order: the ports end up the same (20_memory.md R25, for one
block; several instances are out of the model, log entry 13). -/
def Obligations.DatapathsCommute : Prop :=
  ∀ (a : SingleWord) (i h : BitVec 16) (s : State), ∃ t₁ t₂ u₁ u₂,
    exec (.toFloat16 a) s = .next t₁ ∧ exec (.toFloat32 i h) t₁ = .next t₂ ∧
    exec (.toFloat32 i h) s = .next u₁ ∧ exec (.toFloat16 a) u₁ = .next u₂ ∧
    t₂.f32In = u₂.f32In ∧ t₂.f16In = u₂.f16In ∧ t₂.f16Out = u₂.f16Out ∧ t₂.f32Out = u₂.f32Out

/-- Evaluating again changes nothing (20_memory.md R22, decision D11), and equal requests get equal responses
in any two states of one build (R26, derived there), on a block with power. -/
def Obligations.EvaluationIsIdempotentAndDeterministic : Prop :=
  ∀ (i : Instr) (s s' t t' : State), s.powered = true → exec i s = .next t →
    exec i t = .next t ∧
    (s'.powered = true → s'.build = s.build → exec i s' = .next t' → t'.response = t.response)

/-- The port view and the request view are equivalent (30_encoding.md R44, decisions D2, D4): what an output
port shows once its driven input has settled is what the request with that operand answers. That one step
settles the port is log entry 4. -/
def Obligations.PortViewEqualsRequestView : Prop :=
  ∀ s : State, s.powered = true → s.request = none →
    (∀ f : SingleWord, ∃ t u h,
      step (s.applyEvent (.driveF32In f)) = .next t ∧ t.f16Out = some h ∧
      step (s.applyEvent (.present (encode (.toFloat16 f)))) = .next u ∧
      u.response = some (0#16 ++ h)) ∧
    (∀ (i h : BitVec 16), ∃ t u f,
      step (s.applyEvent (.driveF16In h)) = .next t ∧ t.f32Out = some f ∧
      step (s.applyEvent (.present (encode (.toFloat32 i h)))) = .next u ∧
      u.response = some f)

/-- A changed input leaves its own output unspecified, so that a sample of it is a free value, and leaves the
other datapath's output alone (70_reset_and_hazards.md R84, R87, decisions D10, D11; log entries 3 and 15). -/
def Obligations.ChangedInputLeavesItsOutputUnspecified : Prop :=
  ∀ (s : State) (n : Nat),
    (∀ v, s.f32In ≠ v → (s.setF32In v).f16Out = none ∧
      (s.setF32In v).sampleF16Out n = Config.unsettledF16Out n ∧
      (s.setF32In v).f32Out = s.f32Out) ∧
    (∀ v, s.f16In ≠ v → (s.setF16In v).f32Out = none ∧
      (s.setF16In v).sampleF32Out n = Config.unsettledF32Out n ∧
      (s.setF16In v).f16Out = s.f16Out)

/-! ### IEEE conditions, reported in band (60_exceptions.md R71, decision D9) -/

/-- Overflow arises exactly for a finite input with an infinite result, which then has the input's sign
(60_exceptions.md R71; the predicate's form is log entry 10). -/
def Obligations.OverflowShowsAsInfinity : Prop :=
  ∀ (mode : TieMode) (f : SingleWord),
    (narrowArises mode f .overflow = true ↔
      isFinite32 f = true ∧ category16 (narrow mode f) = .infinity) ∧
    (narrowArises mode f .overflow = true →
      narrow mode f = if f.getLsbD 31 then 0xFC00 else 0x7C00)

/-- Inexact arises exactly when a finite input and its result differ in value (60_exceptions.md R71; the
predicate's form is log entry 10). -/
def Obligations.InexactIsAChangeOfValue : Prop :=
  ∀ (mode : TieMode) (f : SingleWord),
    narrowArises mode f .inexact = true ↔
      isFinite32 f = true ∧ val16 (narrow mode f) ≠ val32 f

/-- Underflow arises exactly for a finite nonzero input whose result is a zero or a subnormal
(60_exceptions.md R71; the predicate's form is log entry 10). -/
def Obligations.UnderflowShowsAsSubnormalOrZero : Prop :=
  ∀ (mode : TieMode) (f : SingleWord),
    narrowArises mode f .underflow = true ↔
      (∃ x, val32 f = some (.finite x) ∧ x ≠ 0) ∧
      (category16 (narrow mode f) = .zero ∨ category16 (narrow mode f) = .subnormal)
end

