-- ==== Sys2Proof/Laws/Formats.lean ====
section
/-! SUPPORT. Field arithmetic of the two formats: each accessor as a quotient and remainder, its range, a word
rebuilt from its fields, and the fields of a word built by `withSign16` or `withSign32`. -/

namespace Sys2Proof.Machine

/-! ### Accessors in plain arithmetic -/

theorem sign16_eq (h : HalfWord) : sign16 h = h.toNat / 2 ^ 15 := by
  have hb := h.isLt
  rw [sign16, Nat.shiftRight_eq_div_pow, show (0x1 : Nat) = 2 ^ 1 - 1 from rfl, Nat.and_two_pow_sub_one_eq_mod]
  omega

theorem exp16_eq (h : HalfWord) : exp16 h = h.toNat / 2 ^ 10 % 2 ^ 5 := by
  rw [exp16, Nat.shiftRight_eq_div_pow, show (0x1F : Nat) = 2 ^ 5 - 1 from rfl, Nat.and_two_pow_sub_one_eq_mod]

theorem man16_eq (h : HalfWord) : man16 h = h.toNat % 2 ^ 10 := by
  rw [man16, show (0x3FF : Nat) = 2 ^ 10 - 1 from rfl, Nat.and_two_pow_sub_one_eq_mod]

theorem sign32_eq (f : SingleWord) : sign32 f = f.toNat / 2 ^ 31 := by
  have hb := f.isLt
  rw [sign32, Nat.shiftRight_eq_div_pow, show (0x1 : Nat) = 2 ^ 1 - 1 from rfl, Nat.and_two_pow_sub_one_eq_mod]
  omega

theorem exp32_eq (f : SingleWord) : exp32 f = f.toNat / 2 ^ 23 % 2 ^ 8 := by
  rw [exp32, Nat.shiftRight_eq_div_pow, show (0xFF : Nat) = 2 ^ 8 - 1 from rfl, Nat.and_two_pow_sub_one_eq_mod]

theorem man32_eq (f : SingleWord) : man32 f = f.toNat % 2 ^ 23 := by
  rw [man32, show (0x7FFFFF : Nat) = 2 ^ 23 - 1 from rfl, Nat.and_two_pow_sub_one_eq_mod]

/-! ### Ranges -/

theorem sign16_lt (h : HalfWord) : sign16 h < 2 := by have := h.isLt; rw [sign16_eq]; omega
theorem exp16_lt (h : HalfWord) : exp16 h < 32 := by rw [exp16_eq]; omega
theorem man16_lt (h : HalfWord) : man16 h < 1024 := by rw [man16_eq]; omega
theorem sign32_lt (f : SingleWord) : sign32 f < 2 := by have := f.isLt; rw [sign32_eq]; omega
theorem exp32_lt (f : SingleWord) : exp32 f < 256 := by rw [exp32_eq]; omega
theorem man32_lt (f : SingleWord) : man32 f < 8388608 := by rw [man32_eq]; omega

/-! ### A word is its fields -/

theorem toNat_of_fields16 (h : HalfWord) :
    h.toNat = sign16 h * 2 ^ 15 + exp16 h * 2 ^ 10 + man16 h := by
  rw [sign16_eq, exp16_eq, man16_eq]; omega

theorem toNat_of_fields32 (f : SingleWord) :
    f.toNat = sign32 f * 2 ^ 31 + exp32 f * 2 ^ 23 + man32 f := by
  rw [sign32_eq, exp32_eq, man32_eq]; omega

/-! ### Words built from a sign and a magnitude -/

theorem withSign16_toNat {s mag : Nat} (hs : s < 2) (hm : mag < 2 ^ 15) :
    (withSign16 s mag).toNat = s * 2 ^ 15 + mag := by
  rw [withSign16, ← Nat.shiftLeft_add_eq_or_of_lt hm, Nat.shiftLeft_eq, BitVec.toNat_ofNat]
  omega

theorem withSign32_toNat {s r : Nat} (hs : s < 2) (hr : r < 2 ^ 31) :
    (withSign32 s r).toNat = s * 2 ^ 31 + r := by
  rw [withSign32, ← Nat.shiftLeft_add_eq_or_of_lt hr, Nat.shiftLeft_eq, BitVec.toNat_ofNat]
  omega

theorem sign16_withSign16 {s mag : Nat} (hs : s < 2) (hm : mag < 2 ^ 15) :
    sign16 (withSign16 s mag) = s := by
  rw [sign16_eq, withSign16_toNat hs hm]; omega

theorem exp16_withSign16 {s mag : Nat} (hs : s < 2) (hm : mag < 2 ^ 15) :
    exp16 (withSign16 s mag) = mag / 2 ^ 10 := by
  rw [exp16_eq, withSign16_toNat hs hm]; omega

theorem man16_withSign16 {s mag : Nat} (hs : s < 2) (hm : mag < 2 ^ 15) :
    man16 (withSign16 s mag) = mag % 2 ^ 10 := by
  rw [man16_eq, withSign16_toNat hs hm]; omega

theorem sign32_withSign32 {s r : Nat} (hs : s < 2) (hr : r < 2 ^ 31) :
    sign32 (withSign32 s r) = s := by
  rw [sign32_eq, withSign32_toNat hs hr]; omega

theorem exp32_withSign32 {s r : Nat} (hs : s < 2) (hr : r < 2 ^ 31) :
    exp32 (withSign32 s r) = r / 2 ^ 23 := by
  rw [exp32_eq, withSign32_toNat hs hr]; omega

theorem man32_withSign32 {s r : Nat} (hs : s < 2) (hr : r < 2 ^ 31) :
    man32 (withSign32 s r) = r % 2 ^ 23 := by
  rw [man32_eq, withSign32_toNat hs hr]; omega

/-! ### A field above a smaller one -/

theorem shiftLeft_or_eq (a : Nat) {b k : Nat} (h : b < 2 ^ k) : a <<< k ||| b = a * 2 ^ k + b := by
  rw [← Nat.shiftLeft_add_eq_or_of_lt h, Nat.shiftLeft_eq]

theorem bit_eq_iff (n k : Nat) : (n >>> k &&& 1 == 1) = decide (n / 2 ^ k % 2 = 1) := by
  rw [Nat.shiftRight_eq_div_pow, Nat.and_one_is_mod]
  rfl

theorem ne_zero_bit_eq (n : Nat) : (n != 0) = decide (n ≠ 0) := by
  by_cases h : n = 0 <;> simp [h]

end Sys2Proof.Machine
end

