-- ==== Sys2Proof/Laws/Narrow.lean ====
section
/-! SUPPORT. The narrowing datapath in plain arithmetic: what each retained field is, how far it can carry,
and the result word. -/

namespace Sys2Proof.Machine

/-! ### Retained fields -/

theorem implicitOne_or {m32 : Nat} (h : m32 < 2 ^ 23) : 0x800000 ||| m32 = 2 ^ 23 + m32 := by
  have := shiftLeft_or_eq 1 h
  simpa using this

theorem subnormalRetained_t {m32 : Nat} (sh : Nat) (h : m32 < 2 ^ 23) :
    (subnormalRetained sh m32).t = (2 ^ 23 + m32) / 2 ^ sh := by
  simp only [subnormalRetained, implicitOne_or h, Nat.shiftRight_eq_div_pow]

theorem subnormalRetained_rb {m32 : Nat} (sh : Nat) (h : m32 < 2 ^ 23) :
    (subnormalRetained sh m32).rb = decide ((2 ^ 23 + m32) / 2 ^ (sh - 1) % 2 = 1) := by
  simp only [subnormalRetained, implicitOne_or h, bit_eq_iff]

theorem subnormalRetained_sticky {m32 : Nat} (sh : Nat) (h : m32 < 2 ^ 23) :
    (subnormalRetained sh m32).sticky = decide ((2 ^ 23 + m32) % 2 ^ (sh - 1) ≠ 0) := by
  simp only [subnormalRetained, implicitOne_or h, Nat.shiftLeft_eq, one_mul,
    Nat.and_two_pow_sub_one_eq_mod, ne_zero_bit_eq]

theorem normalRetained_t {m32 : Nat} (newexp : Nat) (h : m32 < 2 ^ 23) :
    (normalRetained newexp m32).t = newexp * 2 ^ 10 + m32 / 2 ^ 13 := by
  have hm : m32 >>> 13 < 2 ^ 10 := by rw [Nat.shiftRight_eq_div_pow]; omega
  simp only [normalRetained]
  rw [shiftLeft_or_eq _ hm, Nat.shiftRight_eq_div_pow]

theorem normalRetained_rb (newexp m32 : Nat) :
    (normalRetained newexp m32).rb = decide (m32 / 2 ^ 12 % 2 = 1) := by
  simp only [normalRetained, bit_eq_iff]

theorem normalRetained_sticky (newexp m32 : Nat) :
    (normalRetained newexp m32).sticky = decide (m32 % 2 ^ 12 ≠ 0) := by
  simp only [normalRetained, show (0xFFF : Nat) = 2 ^ 12 - 1 from rfl, Nat.and_two_pow_sub_one_eq_mod,
    ne_zero_bit_eq]

theorem lsb_eq (r : Retained) : r.lsb = decide (r.t % 2 = 1) := by
  rw [Retained.lsb, Nat.and_one_is_mod]; rfl

/-! ### Rounding -/

theorem roundIncrement_le_one (mode : TieMode) (r : Retained) : roundIncrement mode r ≤ 1 := by
  cases mode
  · exact Bool.toNat_le r.rb
  · exact Bool.toNat_le _

theorem roundRetained_bounds (mode : TieMode) (r : Retained) :
    r.t ≤ roundRetained mode r ∧ roundRetained mode r ≤ r.t + 1 := by
  have := roundIncrement_le_one mode r
  unfold roundRetained
  omega

/-! ### The result -/

theorem narrowMag_lt (mode : TieMode) {e32 m32 : Nat} (hm : m32 < 2 ^ 23) :
    narrowMag mode e32 m32 < 2 ^ 15 := by
  have hsub (sh : Nat) (hsh : 14 ≤ sh) : (2 ^ 23 + m32) / 2 ^ sh < 2 ^ 10 := by
    rw [Nat.div_lt_iff_lt_mul (by positivity)]
    have : 2 ^ 14 ≤ 2 ^ sh := Nat.pow_le_pow_right (by norm_num) hsh
    omega
  unfold narrowMag
  split
  · omega
  · split <;> omega
  · omega
  · rename_i hc
    have hsh : 14 ≤ (14 - rebias e32).toNat := by
      unfold narrowCase at hc
      split at hc <;> try contradiction
      split at hc <;> try contradiction
      split at hc <;> try contradiction
      split at hc <;> try contradiction
      omega
    have hb := (roundRetained_bounds mode (subnormalRetained (14 - rebias e32).toNat m32)).2
    rw [subnormalRetained_t _ hm] at hb
    have := hsub _ hsh
    omega
  · omega
  · rename_i hc
    have he : (rebias e32).toNat ≤ 30 := by
      unfold narrowCase at hc
      split at hc <;> try contradiction
      split at hc <;> try contradiction
      split at hc <;> try contradiction
      omega
    have hb := (roundRetained_bounds mode (normalRetained (rebias e32).toNat m32)).2
    rw [normalRetained_t _ hm] at hb
    omega

/-- Everything `narrow` answers: the input's sign above the magnitude of its fields. -/
theorem narrow_toNat (mode : TieMode) (f : SingleWord) :
    (narrow mode f).toNat = sign32 f * 2 ^ 15 + narrowMag mode (exp32 f) (man32 f) :=
  withSign16_toNat (sign32_lt f) (narrowMag_lt mode (man32_lt f))

end Sys2Proof.Machine
end

