-- ==== Sys2Proof/Laws/PerInstr.lean ====
section
/-! SUPPORT. Statements about every instruction as syntax, one lemma a constructor. -/

namespace Sys2Proof.Laws.EncodeLayout

/-- The layout of an encoded request (30_encoding.md R36, R38, R39): the word is `op * 2^32 + a`, where `op`
is 0 for `TOFLOAT16` and 1 for `TOFLOAT32`, and `a[15:0]` is the binary16 operand of `TOFLOAT32`. -/
def Statement (i : Instr) : Prop :=
  match i with
  | .toFloat16 a => (encode i).toNat = a.toNat
  | .toFloat32 ignored h => (encode i).toNat = 2 ^ 32 + ignored.toNat * 2 ^ 16 + h.toNat

theorem toFloat16 (a : SingleWord) : Statement (.toFloat16 a) := by
  simp only [Statement, encode, BitVec.toNat_append]
  rw [← Nat.shiftLeft_add_eq_or_of_lt a.isLt]
  simp

theorem toFloat32 (ignored h : BitVec 16) : Statement (.toFloat32 ignored h) := by
  have hh := h.isLt
  have hi := ignored.isLt
  simp only [Statement, encode, BitVec.toNat_append]
  rw [← Nat.shiftLeft_add_eq_or_of_lt hi, ← Nat.shiftLeft_add_eq_or_of_lt hh]
  simp only [Nat.shiftLeft_eq, BitVec.toNat_ofNat]
  omega

end Sys2Proof.Laws.EncodeLayout
end

