-- ==== Sys2Proof/Laws/State.lean ====
section
/-! SUPPORT. What each update of State does to each field, so that no proof unfolds a record update. -/

namespace Sys2Proof.Machine

/-! ### `poweredLevel` -/

@[simp] theorem poweredLevel_of_powered {α : Type} {s : State} (hp : s.powered = true) (v : Option α) :
    s.poweredLevel v = v := if_pos hp

@[simp] theorem poweredLevel_of_unpowered {α : Type} {s : State} (hp : s.powered = false) (v : Option α) :
    s.poweredLevel v = none := by simp [State.poweredLevel, hp]

/-- A level shown is the level settled to, on a block with power. -/
theorem poweredLevel_eq_some {α : Type} {s : State} {v : Option α} {x : α} (h : s.poweredLevel v = some x) :
    s.powered = true ∧ v = some x := by
  cases hp : s.powered with
  | false => rw [poweredLevel_of_unpowered hp] at h; cases h
  | true => rw [poweredLevel_of_powered hp] at h; exact ⟨rfl, h⟩

/-! ### `evalNarrow` -/

@[simp] theorem evalNarrow_build (f : SingleWord) (s : State) : (s.evalNarrow f).build = s.build := rfl
@[simp] theorem evalNarrow_powered (f : SingleWord) (s : State) :
    (s.evalNarrow f).powered = s.powered := rfl
@[simp] theorem evalNarrow_request (f : SingleWord) (s : State) :
    (s.evalNarrow f).request = s.request := rfl
@[simp] theorem evalNarrow_f32In (f : SingleWord) (s : State) : (s.evalNarrow f).f32In = some f := rfl
@[simp] theorem evalNarrow_f16In (f : SingleWord) (s : State) : (s.evalNarrow f).f16In = s.f16In := rfl
@[simp] theorem evalNarrow_f16Out (f : SingleWord) (s : State) :
    (s.evalNarrow f).f16Out = s.poweredLevel (some (narrow s.build.tieMode f)) := rfl
@[simp] theorem evalNarrow_f32Out (f : SingleWord) (s : State) : (s.evalNarrow f).f32Out = s.f32Out := rfl
@[simp] theorem evalNarrow_response (f : SingleWord) (s : State) :
    (s.evalNarrow f).response = s.response := rfl
@[simp] theorem evalNarrow_draws (f : SingleWord) (s : State) : (s.evalNarrow f).draws = s.draws := rfl

/-! ### `evalWiden` -/

@[simp] theorem evalWiden_build (h : HalfWord) (s : State) : (s.evalWiden h).build = s.build := rfl
@[simp] theorem evalWiden_powered (h : HalfWord) (s : State) : (s.evalWiden h).powered = s.powered := rfl
@[simp] theorem evalWiden_request (h : HalfWord) (s : State) : (s.evalWiden h).request = s.request := rfl
@[simp] theorem evalWiden_f32In (h : HalfWord) (s : State) : (s.evalWiden h).f32In = s.f32In := rfl
@[simp] theorem evalWiden_f16In (h : HalfWord) (s : State) : (s.evalWiden h).f16In = some h := rfl
@[simp] theorem evalWiden_f16Out (h : HalfWord) (s : State) : (s.evalWiden h).f16Out = s.f16Out := rfl
@[simp] theorem evalWiden_f32Out (h : HalfWord) (s : State) :
    (s.evalWiden h).f32Out = s.poweredLevel (some (widen h)) := rfl
@[simp] theorem evalWiden_response (h : HalfWord) (s : State) : (s.evalWiden h).response = s.response := rfl
@[simp] theorem evalWiden_draws (h : HalfWord) (s : State) : (s.evalWiden h).draws = s.draws := rfl

/-! ### `respond` -/

@[simp] theorem respond_build (y : Response) (s : State) : (s.respond y).build = s.build := rfl
@[simp] theorem respond_powered (y : Response) (s : State) : (s.respond y).powered = s.powered := rfl
@[simp] theorem respond_request (y : Response) (s : State) : (s.respond y).request = s.request := rfl
@[simp] theorem respond_f32In (y : Response) (s : State) : (s.respond y).f32In = s.f32In := rfl
@[simp] theorem respond_f16In (y : Response) (s : State) : (s.respond y).f16In = s.f16In := rfl
@[simp] theorem respond_f16Out (y : Response) (s : State) : (s.respond y).f16Out = s.f16Out := rfl
@[simp] theorem respond_f32Out (y : Response) (s : State) : (s.respond y).f32Out = s.f32Out := rfl
@[simp] theorem respond_response (y : Response) (s : State) : (s.respond y).response = some y := rfl
@[simp] theorem respond_draws (y : Response) (s : State) : (s.respond y).draws = s.draws := rfl

/-! ### `countDraw` -/

@[simp] theorem countDraw_build (s : State) : (s.countDraw).build = s.build := rfl
@[simp] theorem countDraw_powered (s : State) : (s.countDraw).powered = s.powered := rfl
@[simp] theorem countDraw_request (s : State) : (s.countDraw).request = s.request := rfl
@[simp] theorem countDraw_f32In (s : State) : (s.countDraw).f32In = s.f32In := rfl
@[simp] theorem countDraw_f16In (s : State) : (s.countDraw).f16In = s.f16In := rfl
@[simp] theorem countDraw_f16Out (s : State) : (s.countDraw).f16Out = s.f16Out := rfl
@[simp] theorem countDraw_f32Out (s : State) : (s.countDraw).f32Out = s.f32Out := rfl
@[simp] theorem countDraw_response (s : State) : (s.countDraw).response = s.response := rfl
@[simp] theorem countDraw_draws (s : State) : (s.countDraw).draws = s.draws + 1 := rfl

/-! ### `settle` -/

@[simp] theorem settle_build (s : State) : (s.settle).build = s.build := rfl
@[simp] theorem settle_powered (s : State) : (s.settle).powered = s.powered := rfl
@[simp] theorem settle_request (s : State) : (s.settle).request = none := rfl
@[simp] theorem settle_f32In (s : State) : (s.settle).f32In = s.f32In := rfl
@[simp] theorem settle_f16In (s : State) : (s.settle).f16In = s.f16In := rfl
@[simp] theorem settle_f16Out (s : State) :
    (s.settle).f16Out = s.poweredLevel (s.f32In.map (narrow s.build.tieMode)) := rfl
@[simp] theorem settle_f32Out (s : State) : (s.settle).f32Out = s.poweredLevel (s.f16In.map widen) := rfl
@[simp] theorem settle_response (s : State) : (s.settle).response = none := rfl
@[simp] theorem settle_draws (s : State) : (s.settle).draws = s.draws := rfl

/-! ### `respondNarrow` -/

theorem respondNarrow_of_some {s : State} {x} (h : s.f16Out = some x) :
    s.respondNarrow = s.respond (narrowResponse x) := by rw [State.respondNarrow, h]

theorem respondNarrow_of_none {s : State} (h : s.f16Out = none) :
    s.respondNarrow = (s.respond (narrowResponse (Config.unpoweredF16Result s.draws))).countDraw := by
  rw [State.respondNarrow, h]

@[simp] theorem respondNarrow_build (s : State) : s.respondNarrow.build = s.build := by
  unfold State.respondNarrow; split <;> rfl
@[simp] theorem respondNarrow_powered (s : State) : s.respondNarrow.powered = s.powered := by
  unfold State.respondNarrow; split <;> rfl
@[simp] theorem respondNarrow_request (s : State) : s.respondNarrow.request = s.request := by
  unfold State.respondNarrow; split <;> rfl
@[simp] theorem respondNarrow_f32In (s : State) : s.respondNarrow.f32In = s.f32In := by
  unfold State.respondNarrow; split <;> rfl
@[simp] theorem respondNarrow_f16In (s : State) : s.respondNarrow.f16In = s.f16In := by
  unfold State.respondNarrow; split <;> rfl
@[simp] theorem respondNarrow_f16Out (s : State) : s.respondNarrow.f16Out = s.f16Out := by
  unfold State.respondNarrow; split <;> rfl
@[simp] theorem respondNarrow_f32Out (s : State) : s.respondNarrow.f32Out = s.f32Out := by
  unfold State.respondNarrow; split <;> rfl

/-! ### `respondWiden` -/

theorem respondWiden_of_some {s : State} {x} (h : s.f32Out = some x) :
    s.respondWiden = s.respond (widenResponse x) := by rw [State.respondWiden, h]

theorem respondWiden_of_none {s : State} (h : s.f32Out = none) :
    s.respondWiden = (s.respond (widenResponse (Config.unpoweredF32Result s.draws))).countDraw := by
  rw [State.respondWiden, h]

@[simp] theorem respondWiden_build (s : State) : s.respondWiden.build = s.build := by
  unfold State.respondWiden; split <;> rfl
@[simp] theorem respondWiden_powered (s : State) : s.respondWiden.powered = s.powered := by
  unfold State.respondWiden; split <;> rfl
@[simp] theorem respondWiden_request (s : State) : s.respondWiden.request = s.request := by
  unfold State.respondWiden; split <;> rfl
@[simp] theorem respondWiden_f32In (s : State) : s.respondWiden.f32In = s.f32In := by
  unfold State.respondWiden; split <;> rfl
@[simp] theorem respondWiden_f16In (s : State) : s.respondWiden.f16In = s.f16In := by
  unfold State.respondWiden; split <;> rfl
@[simp] theorem respondWiden_f16Out (s : State) : s.respondWiden.f16Out = s.f16Out := by
  unfold State.respondWiden; split <;> rfl
@[simp] theorem respondWiden_f32Out (s : State) : s.respondWiden.f32Out = s.f32Out := by
  unfold State.respondWiden; split <;> rfl

/-! ### Power -/

@[simp] theorem applyEvent_powerDown (s : State) :
    s.applyEvent .powerDown = { s with powered := false, f16Out := none, f32Out := none } := rfl
@[simp] theorem applyEvent_powerUp (s : State) : s.applyEvent .powerUp = { s with powered := true } := rfl

/-! ### Requests presented to the block -/

@[simp] theorem applyEvent_present (q : Request) (s : State) :
    s.applyEvent (.present q) = { s with request := some q } := rfl

theorem withFetchWord_of_lt (s : State) (nbits : Nat) {w : Nat} (h : w < 2 ^ 33) :
    s.withFetchWord nbits w = { s with request := some (BitVec.ofNat 33 w) } := by
  rw [State.withFetchWord, requestOfNat, if_pos h]

theorem withFetchWord_of_ge (s : State) (nbits : Nat) {w : Nat} (h : 2 ^ 33 ≤ w) :
    s.withFetchWord nbits w = { s with request := none } := by
  rw [State.withFetchWord, requestOfNat, if_neg (Nat.not_lt.mpr h)]

end Sys2Proof.Machine
end

