-- ==== Sys2Proof/Laws/Step.lean ====
section
/-! SUPPORT. What a step can do, and what a user's action can do to a port, said once. -/

namespace Sys2Proof.Machine

/-- Everything `TOFLOAT16` does: evaluate its datapath and respond with what its output shows. -/
theorem exec_toFloat16 (a : SingleWord) (s : State) :
    exec (.toFloat16 a) s = .next (s.evalNarrow a).respondNarrow := rfl

/-- Everything `TOFLOAT32` does: evaluate its datapath and respond with what its output shows. -/
theorem exec_toFloat32 (ignored h : BitVec 16) (s : State) :
    exec (.toFloat32 ignored h) s = .next (s.evalWiden h).respondWiden := rfl

/-- `TOFLOAT16` with power, field by field. -/
theorem exec_toFloat16_powered (a : SingleWord) {s : State} (hp : s.powered = true) :
    exec (.toFloat16 a) s =
      .next { s with
        f32In := some a
        f16Out := some (narrow s.build.tieMode a)
        response := some ((narrow s.build.tieMode a).zeroExtend 32) } := by
  have hout : (s.evalNarrow a).f16Out = some (narrow s.build.tieMode a) := by simp [hp]
  rw [exec_toFloat16, respondNarrow_of_some hout, State.evalNarrow, poweredLevel_of_powered hp]
  rfl

/-- `TOFLOAT16` without power, field by field: the result in the response is a free value. -/
theorem exec_toFloat16_unpowered (a : SingleWord) {s : State} (hp : s.powered = false) :
    exec (.toFloat16 a) s =
      .next { s with
        f32In := some a
        f16Out := none
        response := some ((Config.unpoweredF16Result s.draws).zeroExtend 32)
        draws := s.draws + 1 } := by
  have hout : (s.evalNarrow a).f16Out = none := by simp [hp]
  rw [exec_toFloat16, respondNarrow_of_none hout, State.evalNarrow, poweredLevel_of_unpowered hp]
  rfl

/-- `TOFLOAT32` with power, field by field. -/
theorem exec_toFloat32_powered (ignored h : BitVec 16) {s : State} (hp : s.powered = true) :
    exec (.toFloat32 ignored h) s =
      .next { s with f16In := some h, f32Out := some (widen h), response := some (widen h) } := by
  have hout : (s.evalWiden h).f32Out = some (widen h) := by simp [hp]
  rw [exec_toFloat32, respondWiden_of_some hout, State.evalWiden, poweredLevel_of_powered hp]
  rfl

/-- `TOFLOAT32` without power, field by field: the response is a free value. -/
theorem exec_toFloat32_unpowered (ignored h : BitVec 16) {s : State} (hp : s.powered = false) :
    exec (.toFloat32 ignored h) s =
      .next { s with
        f16In := some h
        f32Out := none
        response := some (Config.unpoweredF32Result s.draws)
        draws := s.draws + 1 } := by
  have hout : (s.evalWiden h).f32Out = none := by simp [hp]
  rw [exec_toFloat32, respondWiden_of_none hout, State.evalWiden, poweredLevel_of_unpowered hp]
  rfl

theorem step_of_no_request {s : State} (h : s.request = none) : step s = .next s.settle := by
  rw [step, h]

theorem step_of_request {s : State} {q : Request} (h : s.request = some q) :
    step s = exec (decode q) s.settle := by rw [step, h]

/-- Everything a step can do. -/
theorem step_cases {s t : State} (h : step s = .next t) :
    (s.request = none ∧ t = s.settle) ∨
    (∃ q a, s.request = some q ∧ decode q = .toFloat16 a ∧ t = (s.settle.evalNarrow a).respondNarrow) ∨
    (∃ q i b, s.request = some q ∧ decode q = .toFloat32 i b ∧ t = (s.settle.evalWiden b).respondWiden) := by
  unfold step at h
  cases hq : s.request with
  | none =>
    rw [hq] at h
    injection h with h
    exact .inl ⟨rfl, h.symm⟩
  | some q =>
    rw [hq] at h
    dsimp only at h
    cases hd : decode q with
    | toFloat16 a =>
      rw [hd, exec_toFloat16] at h
      injection h with h
      exact .inr (.inl ⟨q, a, rfl, hd, h.symm⟩)
    | toFloat32 i b =>
      rw [hd, exec_toFloat32] at h
      injection h with h
      exact .inr (.inr ⟨q, i, b, rfl, hd, h.symm⟩)

/-- Everything a new level on `f32_in` can do. -/
theorem setF32In_cases (v : Option SingleWord) (s : State) :
    (s.f32In = v ∧ s.setF32In v = s) ∨
    (s.f32In ≠ v ∧ s.setF32In v = { s with f32In := v, f16Out := none }) := by
  by_cases h : s.f32In = v
  · exact .inl ⟨h, if_pos h⟩
  · exact .inr ⟨h, if_neg h⟩

/-- Everything a new level on `f16_in` can do. -/
theorem setF16In_cases (v : Option HalfWord) (s : State) :
    (s.f16In = v ∧ s.setF16In v = s) ∨
    (s.f16In ≠ v ∧ s.setF16In v = { s with f16In := v, f32Out := none }) := by
  by_cases h : s.f16In = v
  · exact .inl ⟨h, if_pos h⟩
  · exact .inr ⟨h, if_neg h⟩

end Sys2Proof.Machine
end

