-- ==== Sys2Proof/Laws/Values.lean ====
section
/-! SUPPORT. The value of a finite pattern by one formula, zeros included, and its magnitude. -/

namespace Sys2Proof.Machine

theorem signFactor_abs (s : Nat) : |signFactor s| = 1 := by
  unfold signFactor; split <;> simp

theorem finiteMagnitude16_nonneg (e m : Nat) : 0 ≤ finiteMagnitude16 e m := by
  unfold finiteMagnitude16; split <;> positivity

theorem finiteMagnitude32_nonneg (e m : Nat) : 0 ≤ finiteMagnitude32 e m := by
  unfold finiteMagnitude32; split <;> positivity

/-- R31: a finite binary16, zeros included, denotes its sign times its magnitude. -/
theorem val16_of_finite {h : HalfWord} (he : exp16 h ≠ 31) :
    val16 h = some (.finite (signFactor (sign16 h) * finiteMagnitude16 (exp16 h) (man16 h))) := by
  by_cases h0 : exp16 h = 0 <;> by_cases hm : man16 h = 0 <;>
    simp [val16, category16, categoryOf, he, h0, hm, finiteMagnitude16]

/-- R34: a finite binary32, zeros included, denotes its sign times its magnitude. -/
theorem val32_of_finite {f : SingleWord} (he : exp32 f ≠ 255) :
    val32 f = some (.finite (signFactor (sign32 f) * finiteMagnitude32 (exp32 f) (man32 f))) := by
  by_cases h0 : exp32 f = 0 <;> by_cases hm : man32 f = 0 <;>
    simp [val32, category32, categoryOf, he, h0, hm, finiteMagnitude32]

theorem val16_of_infinite {h : HalfWord} (he : exp16 h = 31) (hm : man16 h = 0) :
    val16 h = some (.infinite (sign16 h == 1)) := by
  simp [val16, category16, categoryOf, he, hm]

theorem val32_of_infinite {f : SingleWord} (he : exp32 f = 255) (hm : man32 f = 0) :
    val32 f = some (.infinite (sign32 f == 1)) := by
  simp [val32, category32, categoryOf, he, hm]

theorem val16_of_nan {h : HalfWord} (he : exp16 h = 31) (hm : man16 h ≠ 0) : val16 h = none := by
  simp [val16, category16, categoryOf, he, hm]

theorem val32_of_nan {f : SingleWord} (he : exp32 f = 255) (hm : man32 f ≠ 0) : val32 f = none := by
  simp [val32, category32, categoryOf, he, hm]

/-- A pattern with a finite value is finite, and its magnitude is that of its fields. -/
theorem abs_of_val16 {h : HalfWord} {x : Rat} (hx : val16 h = some (.finite x)) :
    exp16 h ≠ 31 ∧ |x| = finiteMagnitude16 (exp16 h) (man16 h) := by
  by_cases he : exp16 h = 31
  · by_cases hm : man16 h = 0
    · rw [val16_of_infinite he hm] at hx; cases hx
    · rw [val16_of_nan he hm] at hx; cases hx
  · rw [val16_of_finite he] at hx
    injection hx with hx; injection hx with hx
    exact ⟨he, by rw [← hx, abs_mul, signFactor_abs, one_mul, abs_of_nonneg (finiteMagnitude16_nonneg _ _)]⟩

/-- A pattern with a finite value is finite, and its magnitude is that of its fields. -/
theorem abs_of_val32 {f : SingleWord} {x : Rat} (hx : val32 f = some (.finite x)) :
    exp32 f ≠ 255 ∧ |x| = finiteMagnitude32 (exp32 f) (man32 f) := by
  by_cases he : exp32 f = 255
  · by_cases hm : man32 f = 0
    · rw [val32_of_infinite he hm] at hx; cases hx
    · rw [val32_of_nan he hm] at hx; cases hx
  · rw [val32_of_finite he] at hx
    injection hx with hx; injection hx with hx
    exact ⟨he, by rw [← hx, abs_mul, signFactor_abs, one_mul, abs_of_nonneg (finiteMagnitude32_nonneg _ _)]⟩

end Sys2Proof.Machine
end

