-- ==== Sys2Proof/Laws/Widen.lean ====
section
/-! SUPPORT. The widening datapath in plain arithmetic. -/

namespace Sys2Proof.Machine

theorem msbIndex_spec {v : Nat} (h : v ≠ 0) : 2 ^ msbIndex v ≤ v ∧ v < 2 ^ (msbIndex v + 1) :=
  ⟨Nat.log2_self_le h, Nat.lt_log2_self⟩

theorem msbIndex_le_nine {m16 : Nat} (hz : m16 ≠ 0) (h : m16 < 1024) : msbIndex m16 ≤ 9 := by
  have hp := (msbIndex_spec hz).1
  by_contra hgt
  have : 2 ^ 10 ≤ 2 ^ msbIndex m16 := Nat.pow_le_pow_right (by norm_num) (by omega)
  omega

theorem widenMag_infOrNan {m16 : Nat} (h : m16 < 1024) :
    widenMag 31 m16 = 255 * 2 ^ 23 + m16 * 2 ^ 13 := by
  have hm : m16 <<< 13 < 2 ^ 23 := by rw [Nat.shiftLeft_eq]; omega
  rw [widenMag, if_pos rfl, shiftLeft_or_eq _ hm, Nat.shiftLeft_eq]

theorem widenMag_zero : widenMag 0 0 = 0 := rfl

theorem widenMag_subnormal {m16 : Nat} (hz : m16 ≠ 0) :
    widenMag 0 m16 =
      (msbIndex m16 + 103) * 2 ^ 23 + m16 * 2 ^ (23 - msbIndex m16) % 2 ^ 23 := by
  have hm : (m16 <<< (23 - msbIndex m16)) &&& 0x7FFFFF < 2 ^ 23 :=
    lt_of_le_of_lt Nat.and_le_right (by norm_num)
  rw [widenMag, if_neg (by decide), if_pos rfl, if_neg hz, shiftLeft_or_eq _ hm, Nat.shiftLeft_eq,
    show (0x7FFFFF : Nat) = 2 ^ 23 - 1 from rfl, Nat.and_two_pow_sub_one_eq_mod]

theorem widenMag_normalized {e16 m16 : Nat} (h1 : e16 ≠ 0) (h2 : e16 ≠ 31) (hm : m16 < 1024) :
    widenMag e16 m16 = (e16 + 112) * 2 ^ 23 + m16 * 2 ^ 13 := by
  have hm' : m16 <<< 13 < 2 ^ 23 := by rw [Nat.shiftLeft_eq]; omega
  rw [widenMag, if_neg h2, if_neg h1, shiftLeft_or_eq _ hm', Nat.shiftLeft_eq]

theorem widenMag_lt {e16 m16 : Nat} (he : e16 < 32) (hm : m16 < 1024) : widenMag e16 m16 < 2 ^ 31 := by
  by_cases h31 : e16 = 31
  · subst h31; rw [widenMag_infOrNan hm]; omega
  by_cases h0 : e16 = 0
  · subst h0
    by_cases hz : m16 = 0
    · subst hz; rw [widenMag_zero]; omega
    · have := msbIndex_le_nine hz hm
      have := Nat.mod_lt (m16 * 2 ^ (23 - msbIndex m16)) (show 0 < 2 ^ 23 by norm_num)
      rw [widenMag_subnormal hz]; omega
  · rw [widenMag_normalized h0 h31 hm]; omega

/-- Everything `widen` answers: the input's sign above the magnitude of its fields. -/
theorem widen_toNat (h : HalfWord) :
    (widen h).toNat = sign16 h * 2 ^ 31 + widenMag (exp16 h) (man16 h) :=
  withSign32_toNat (sign16_lt h) (widenMag_lt (exp16_lt h) (man16_lt h))

end Sys2Proof.Machine
end

