-- ==== Sys2Proof/Machine/Program.lean ====
section
/-! DEFINITION. The notation for small programs (spec 30_encoding.md R43) and what a program's end state is
(95_test_vectors.md section 3). A program runs outside the block: its lines are presented as requests, one
step each, and its memory is the list of responses. -/

namespace Sys2Proof.Machine

/-- An operand as written: an immediate, or the response of an earlier line, numbered from 1 (R43). -/
inductive ProgramOperand where
  | imm (v : Nat)
  | line (j : Nat)
deriving DecidableEq, Repr

/-- A line of a program (R43). A host step is no request; its result comes from the host. -/
inductive ProgramLine where
  | toFloat16 (x : ProgramOperand)
  | toFloat32 (x : ProgramOperand)
  | hostStep (y : Response)
deriving DecidableEq, Repr

/-- A program: its lines in order. There are no labels, branches or loops (R43, 60_exceptions.md R80). -/
abbrev Program := List ProgramLine

/-- An operand of line `k`: an immediate of the operation's width, or an earlier line (R43). -/
def ProgramOperand.wellFormed (k width : Nat) : ProgramOperand → Bool
  | .imm v => v < 2 ^ width
  | .line j => 1 ≤ j && j < k

/-- Line `k` is written as R43 says: `TOFLOAT16 <imm32>`, `TOFLOAT32 <imm16>`. -/
def ProgramLine.wellFormed (k : Nat) : ProgramLine → Bool
  | .toFloat16 x => x.wellFormed k 32
  | .toFloat32 x => x.wellFormed k 16
  | .hostStep _ => true

/-- Every line is well formed; `k` is the number of the first. -/
def programWellFormedFrom (k : Nat) : Program → Bool
  | [] => true
  | l :: rest => l.wellFormed k && programWellFormedFrom (k + 1) rest

/-- A program's lines are numbered from 1. -/
def programWellFormed (p : Program) : Bool := programWellFormedFrom 1 p

/-- The operand word an operand stands for, given the responses of the lines before it. -/
def ProgramOperand.resolve (ys : List Response) : ProgramOperand → Option (BitVec 32)
  | .imm v => some (BitVec.ofNat 32 v)
  | .line j => if j = 0 then none else ys[j - 1]?

/-- R43: `a = y_J` for `TOFLOAT16`; `a[15:0] = y_J[15:0]` and `a[31:16] = 0` for `TOFLOAT32`. -/
def ProgramLine.request (ys : List Response) : ProgramLine → Option Request
  | .toFloat16 x => (x.resolve ys).map fun a => encode (.toFloat16 a)
  | .toFloat32 x => (x.resolve ys).map fun a => encode (.toFloat32 0 (a.extractLsb' 0 16))
  | .hostStep _ => none

/-- Present a request, take a step, and read the response. -/
def State.ask (q : Request) (s : State) : Option (Response × State) :=
  match step (s.applyEvent (.present q)) with
  | .next t => t.response.map fun y => (y, t)
  | .fault _ => none
  | .refused _ => none

/-- One line after the responses `ys`: its own response and the state it leaves. A line that names no
earlier response has none. -/
def runLine (ys : List Response) (s : State) (l : ProgramLine) : Option (Response × State) :=
  match l with
  | .hostStep y => some (y, s)
  | .toFloat16 x => ((ProgramLine.toFloat16 x).request ys).bind fun q => s.ask q
  | .toFloat32 x => ((ProgramLine.toFloat32 x).request ys).bind fun q => s.ask q

/-- The responses of all lines, in order, after the responses `ys`. -/
def runProgramFrom (ys : List Response) (s : State) : Program → Option (List Response)
  | [] => some ys
  | l :: rest => (runLine ys s l).bind fun r => runProgramFrom (ys ++ [r.1]) r.2 rest

/-- The end state of a program: its responses (95_test_vectors.md section 3). -/
def runProgram (s : State) (p : Program) : Option (List Response) := runProgramFrom [] s p

end Sys2Proof.Machine
end

