-- ==== Sys2Proof/Tests/Slice0.lean ====
section
/-! SUPPORT. The model's own tests. Expected results come from spec/95_test_vectors.md or are written out from
the spec's encodings; the last part shows, for each obligation with hypotheses, values that meet them. -/

namespace Sys2Proof.Tests

open Sys2Proof.Machine

/-- The power-up state of a build. -/
def built (mode : TieMode) : State := { State.reset with build := { tieMode := mode } }

/-- The response to the request word `w`, presented at power-up. -/
def answer (mode : TieMode) (w : Nat) : Option Response :=
  match step ((built mode).withFetchWord 40 w) with
  | .next t => t.response
  | .fault _ => none
  | .refused _ => none

/-! ### Decoding: words written out from 30_encoding.md R36 and its opcode map -/

/-- `q[32] = 0`, then the sign, exponent and mantissa of the binary32 1.0. -/
theorem test_decode_toFloat16 :
    decode (0b0#1 ++ 0b0#1 ++ 0b01111111#8 ++ 0b00000000000000000000000#23) =
      .toFloat16 0x3F800000 := by decide

/-- `q[32] = 1`, sixteen ignored bits, then the sign, exponent and mantissa of the binary16 1.0. -/
theorem test_decode_toFloat32 :
    decode (0b1#1 ++ 0b1111111111111111#16 ++ 0b0#1 ++ 0b01111#5 ++ 0b0000000000#10) =
      .toFloat32 0xFFFF 0x3C00 := by decide

/-- A number of 34 bits is no request and is rejected by name. -/
theorem test_decode_rejects_wide_word : decodeNat 0x200000000 = .error .notARequestWord := by rfl

/-- The highest request word is a `TOFLOAT32`. -/
theorem test_decodeTableWord_highest :
    decodeTableWord 40 0x1FFFFFFFF = some (.toFloat32 0xFFFF 0xFFFF) := by decide

/-! ### Well-formedness -/

/-- R41: no instruction is ill formed, at the ends of the operand ranges. -/
theorem test_wellFormed_all :
    Instr.wellFormed (.toFloat16 0xFFFFFFFF) = true ∧
      Instr.wellFormed (.toFloat32 0xFFFF 0xFFFF) = true := by decide

/-- R43: a `TOFLOAT32` with ignored bits set is not written by the notation. -/
theorem test_hasNotation_refuses_ignored_bits :
    Instr.hasNotation (.toFloat32 0x0001 0x3C00) = false := by decide

/-- R43: an immediate of 17 bits, one of 33 bits, the line itself as an operand, and line 0 are refused. -/
theorem test_program_refuses :
    programWellFormed [.toFloat32 (.imm 0x10000)] = false ∧
    programWellFormed [.toFloat16 (.imm 0x100000000)] = false ∧
    programWellFormed [.toFloat16 (.line 1)] = false ∧
    programWellFormed [.hostStep 0, .toFloat16 (.line 0)] = false := by decide

/-! ### Results: the vectors of 95_test_vectors.md section 2, each one step from power-up -/

/-- Section 2.1, first half: input, result under `TIES_AWAY`, result under `TIES_EVEN`. -/
theorem test_toFloat16_vectors_small :
    ([
    (0x00000000, 0x0000, 0x0000), (0x80000000, 0x8000, 0x8000), (0x00000001, 0x0000, 0x0000),
    (0x807FFFFF, 0x8000, 0x8000), (0x00800000, 0x0000, 0x0000), (0x32FFFFFF, 0x0000, 0x0000),
    (0x33000000, 0x0001, 0x0000), (0x33000001, 0x0001, 0x0001), (0xB3000000, 0x8001, 0x8000),
    (0x33400000, 0x0001, 0x0001), (0x33C00000, 0x0002, 0x0002), (0x34200000, 0x0003, 0x0002),
    (0x34400000, 0x0003, 0x0003), (0x387FC000, 0x03FF, 0x03FF), (0x387FD000, 0x03FF, 0x03FF),
    (0x387FE000, 0x0400, 0x0400), (0x387FF000, 0x0400, 0x0400), (0x38800000, 0x0400, 0x0400),
    (0x38801000, 0x0401, 0x0400), (0x38803000, 0x0402, 0x0402), (0x3F7FF000, 0x3C00, 0x3C00),
    (0x3F800000, 0x3C00, 0x3C00)] : List (Nat × Response × Response)).all
      (fun r => answer .tiesAway r.1 == some r.2.1 && answer .tiesEven r.1 == some r.2.2) = true := by
  decide

/-- Section 2.1, second half. -/
theorem test_toFloat16_vectors_large :
    ([
    (0xBF800000, 0xBC00, 0xBC00), (0x3F801000, 0x3C01, 0x3C00), (0x3F801001, 0x3C01, 0x3C01),
    (0x3F802000, 0x3C01, 0x3C01), (0x3F803000, 0x3C02, 0x3C02), (0x3FFFF000, 0x4000, 0x4000),
    (0x3EAAAAAB, 0x3555, 0x3555), (0x40000000, 0x4000, 0x4000), (0x40400000, 0x4200, 0x4200),
    (0x40A00000, 0x4500, 0x4500), (0x477FE000, 0x7BFF, 0x7BFF), (0x477FEFFF, 0x7BFF, 0x7BFF),
    (0x477FF000, 0x7C00, 0x7C00), (0xC77FF000, 0xFC00, 0xFC00), (0x47800000, 0x7C00, 0x7C00),
    (0x7F7FFFFF, 0x7C00, 0x7C00), (0x7F800000, 0x7C00, 0x7C00), (0xFF800000, 0xFC00, 0xFC00),
    (0x7F800001, 0x7E00, 0x7E00), (0x7FC00000, 0x7E00, 0x7E00), (0x7FFFFFFF, 0x7E00, 0x7E00),
    (0xFFC00001, 0xFE00, 0xFE00)] : List (Nat × Response × Response)).all
      (fun r => answer .tiesAway r.1 == some r.2.1 && answer .tiesEven r.1 == some r.2.2) = true := by
  decide

/-- Section 2.2: input and result; the operation bit is added here. -/
theorem test_toFloat32_vectors :
    ([
    (0x0000, 0x00000000), (0x8000, 0x80000000), (0x0001, 0x33800000), (0x8001, 0xB3800000),
    (0x0002, 0x34000000), (0x0003, 0x34400000), (0x0155, 0x37AA8000), (0x0200, 0x38000000),
    (0x03FF, 0x387FC000), (0x0400, 0x38800000), (0x0401, 0x38802000), (0x3555, 0x3EAAA000),
    (0x3BFF, 0x3F7FE000), (0x3C00, 0x3F800000), (0xBC00, 0xBF800000), (0x3C01, 0x3F802000),
    (0x4000, 0x40000000), (0x4200, 0x40400000), (0x4500, 0x40A00000), (0x7BFF, 0x477FE000),
    (0xFBFF, 0xC77FE000), (0x7C00, 0x7F800000), (0xFC00, 0xFF800000), (0x7C01, 0x7F802000),
    (0x7D00, 0x7FA00000), (0x7E00, 0x7FC00000), (0x7FFF, 0x7FFFE000), (0xFE00, 0xFFC00000),
    (0xFFFF, 0xFFFFE000)] : List (Nat × Response)).all
      (fun r => answer .tiesAway (2 ^ 32 + r.1) == some r.2) = true := by
  decide

/-- Section 2.3: request words with bits set that `TOFLOAT32` ignores. -/
theorem test_toFloat32_ignores_high_half :
    answer .tiesAway 0x1FFFF3C00 = some 0x3F800000 ∧ answer .tiesAway 0x1ABCD8000 = some 0x80000000 := by
  decide

/-- The source's algorithm on the vectors of section 2.2 that take its float subtraction. -/
theorem test_widenSource_subtraction :
    widenSource 0x0000 = 0x00000000 ∧ widenSource 0x8000 = 0x80000000 ∧
    widenSource 0x0001 = 0x33800000 ∧ widenSource 0x0155 = 0x37AA8000 ∧
    widenSource 0x03FF = 0x387FC000 := by decide

/-- Section 3, program P4, lines 1 and 2: an operand that names an earlier response. -/
theorem test_program_P4_start :
    runProgram State.reset [.toFloat32 (.imm 0x7C01), .toFloat16 (.line 1)] =
      some [0x7F802000, 0x00007E00] := by decide

/-- 30_encoding.md R31: `0x7BFF` is 65504. -/
theorem test_val16_largest : val16 0x7BFF = some (.finite 65504) := by
  rw [val16_of_finite (by decide)]
  simp only [show sign16 0x7BFF = 0 from by decide, show exp16 0x7BFF = 30 from by decide,
    show man16 0x7BFF = 1023 from by decide, signFactor, finiteMagnitude16]
  norm_num

/-! ### Values that meet the obligations' hypotheses -/

theorem witness_DecodeIsSelectedByOperationBit :
    (0x0FFFFFFFF : Request).getLsbD 32 = false ∧ (0x100000000 : Request).getLsbD 32 = true := by decide

theorem witness_DecodeOfEncodeIsIdentity :
    Instr.wellFormed (.toFloat16 0x80000001) = true ∧ Instr.wellFormed (.toFloat32 0x8001 0x8001) = true := by
  decide

theorem witness_StepRunsTheDecodedRequest :
    (built .tiesEven |>.applyEvent (.present 0x03F801000)).request = some 0x03F801000 ∧
      decodeTableWord 40 0x1FFFF3C00 = some (.toFloat32 0xFFFF 0x3C00) := by decide

/-- Both inputs driven, and neither driven. -/
theorem witness_IdleStepSettlesTheOutputs :
    let s := (State.reset.applyEvent (.driveF32In 0x3F801000)).applyEvent (.driveF16In 0x03FF)
    s.powered = true ∧ (s.applyEvent .powerDown).powered = false ∧ s.request = none ∧ s.f32In = some 0x3F801000 ∧ s.f16In = some 0x03FF ∧
      State.reset.request = none ∧ State.reset.f32In = none ∧ State.reset.f16In = none := by decide

/-- A coherent state in which both outputs show a result. -/
def bothShown : State :=
  ((built .tiesEven).evalNarrow 0x3F801000).evalWiden 0x03FF

theorem witness_coherent_state :
    bothShown.Coherent ∧ bothShown.f16Out = some 0x3C00 ∧ bothShown.f32Out = some 0x387FC000 := by
  refine ⟨⟨?_, ?_⟩, by decide, by decide⟩
  · intro h hh; exact ⟨rfl, 0x3F801000, rfl, Option.some.inj hh.symm⟩
  · intro f hf; exact ⟨rfl, 0x03FF, rfl, Option.some.inj hf.symm⟩

/-- A step that answers a next state, for the statements about every step. -/
theorem witness_EveryStepLeavesTheOutputsSettled :
    step (bothShown.applyEvent (.present 0x1FFFF0001)) =
      .next ((bothShown.evalWiden 0x0001).respond 0x33800000) := by rfl

theorem witness_EveryRequestHasAResult :
    (bothShown.applyEvent (.present 0x0FFFFFFFF)).request = some 0x0FFFFFFFF := by decide

theorem witness_ToFloat16ChangesOnlyItsOwnPorts :
    exec (.toFloat16 0x477FF000) bothShown =
      .next ((bothShown.evalNarrow 0x477FF000).respond 0x7C00) := by rfl

theorem witness_ToFloat32ChangesOnlyItsOwnPorts :
    exec (.toFloat32 0xFFFF 0x7C01) bothShown =
      .next ((bothShown.evalWiden 0x7C01).respond 0x7F802000) := by rfl

/-- Finite values of both formats, and patterns without one. -/
theorem witness_CategoriesAgreeWithValues :
    (∃ x, val16 0x0001 = some (.finite x)) ∧ (∃ x, val16 0x8000 = some (.finite x)) ∧
    (∃ x, val32 0x807FFFFF = some (.finite x)) ∧ (∃ x, val32 0x00800000 = some (.finite x)) ∧
    val16 0x7C01 = none ∧ val32 0xFFFFFFFF = none ∧
    val16 0xFC00 = some (.infinite true) ∧ val32 0x7F800000 = some (.infinite false) :=
  ⟨⟨_, val16_of_finite (by decide)⟩, ⟨_, val16_of_finite (by decide)⟩,
    ⟨_, val32_of_finite (by decide)⟩, ⟨_, val32_of_finite (by decide)⟩,
    val16_of_nan (by decide) (by decide), val32_of_nan (by decide) (by decide),
    val16_of_infinite (by decide) (by decide), val32_of_infinite (by decide) (by decide)⟩

/-- The finite binary16 patterns at the bounds, the largest one and the smallest nonzero one. -/
theorem witness_HalfFiniteMagnitudeBounds :
    (∃ x, val16 0x7BFF = some (.finite x) ∧ x ≠ 0) ∧ (∃ x, val16 0x8001 = some (.finite x) ∧ x ≠ 0) := by
  refine ⟨⟨_, test_val16_largest, by norm_num⟩, ⟨_, val16_of_finite (by decide), ?_⟩⟩
  simp only [show sign16 0x8001 = 1 from by decide, show exp16 0x8001 = 0 from by decide,
    show man16 0x8001 = 1 from by decide, signFactor, finiteMagnitude16]
  norm_num

/-- Both ends of every range of R47's table, and the case each end takes. -/
theorem witness_NarrowCase_ranges :
    narrowCase 0 = .zeroOrSubnormalIn ∧ narrowCase 1 = .underflowToZero ∧
    narrowCase 101 = .underflowToZero ∧ narrowCase 102 = .subnormalOut ∧
    narrowCase 112 = .subnormalOut ∧ narrowCase 113 = .normalOut ∧ narrowCase 142 = .normalOut ∧
    narrowCase 143 = .overflow ∧ narrowCase 254 = .overflow ∧ narrowCase 255 = .infOrNanIn := by decide

/-- The tests on `newexp` at their boundaries. -/
theorem witness_NarrowCaseByTheTestsOnNewexp :
    (31 : Int) ≤ ((143 : Nat) : Int) - 127 + 15 ∧ ((112 : Nat) : Int) - 127 + 15 ≤ 0 ∧
    14 - (((102 : Nat) : Int) - 127 + 15) ≤ 24 ∧ 24 < 14 - (((101 : Nat) : Int) - 127 + 15) ∧
    0 < ((113 : Nat) : Int) - 127 + 15 ∧ ((142 : Nat) : Int) - 127 + 15 < 31 := by decide

theorem witness_NarrowFlushesZeroAndSubnormalInputs :
    bothShown.powered = true ∧
    exp32 0x00000000 = 0 ∧ exp32 0x807FFFFF = 0 := by decide

theorem witness_NarrowOfInfinityAndNaN :
    bothShown.powered = true ∧
    (exp32 0xFF800000 = 255 ∧ man32 0xFF800000 = 0) ∧ (exp32 0x7F800001 = 255 ∧ man32 0x7F800001 ≠ 0) := by
  decide

theorem witness_NarrowOverflowGivesInfinity :
    bothShown.powered = true ∧
    (exp32 0x47800000 ≠ 255 ∧ 31 ≤ (exp32 0x47800000 : Int) - 127 + 15) ∧
    (exp32 0xFF7FFFFF ≠ 255 ∧ 31 ≤ (exp32 0xFF7FFFFF : Int) - 127 + 15) := by decide

/-- `sh = 24` at 2^-25, `sh = 14` just below 2^-14. -/
theorem witness_NarrowToSubnormalRounds :
    bothShown.powered = true ∧
    ((24 : Nat) : Int) = 14 - ((exp32 0x33000000 : Int) - 127 + 15) ∧
    ((14 : Nat) : Int) = 14 - ((exp32 0x387FFFFF : Int) - 127 + 15) := by decide

theorem witness_NarrowUnderflowGivesZero :
    bothShown.powered = true ∧
    (exp32 0x00800000 ≠ 0 ∧ (exp32 0x00800000 : Int) - 127 + 15 ≤ -11) ∧
    (exp32 0xB2FFFFFF ≠ 0 ∧ (exp32 0xB2FFFFFF : Int) - 127 + 15 ≤ -11) := by decide

/-- `newexp = 1` at 2^-14, `newexp = 30` at 65520. -/
theorem witness_NarrowToNormalRounds :
    bothShown.powered = true ∧
    ((1 : Nat) : Int) = (exp32 0x38800000 : Int) - 127 + 15 ∧
    ((30 : Nat) : Int) = (exp32 0x477FF000 : Int) - 127 + 15 := by decide

/-- Finite inputs at the ends of the two cases, for this statement, for the thresholds and for R59's ranges. -/
theorem witness_OverflowAndUnderflowCasesByMagnitude :
    (∃ x, val32 0x47800000 = some (.finite x)) ∧ narrowCase (exp32 0x47800000) = .overflow ∧
    (∃ x, val32 0x32FFFFFF = some (.finite x)) ∧ narrowCase (exp32 0x32FFFFFF) = .underflowToZero :=
  ⟨⟨_, val32_of_finite (by decide)⟩, by decide, ⟨_, val32_of_finite (by decide)⟩, by decide⟩

theorem witness_RoundingCarryIsBounded :
    exp32 0x387FFFFF ≤ 112 ∧ narrow .tiesAway 0x387FFFFF = 0x0400 ∧
    exp32 0x477FF000 ≤ 254 ∧ narrow .tiesEven 0x477FF000 = 0x7C00 ∧
    category32 0xFF800000 ≠ .nan := by decide

/-- A normal tie, the subnormal tie at 2^-25, and a tie at which the modes agree. -/
theorem witness_TieModesDifferExactlyOnEvenTies :
    narrow .tiesAway 0x3F801000 ≠ narrow .tiesEven 0x3F801000 ∧
    narrow .tiesAway 0xB3000000 ≠ narrow .tiesEven 0xB3000000 ∧
    narrow .tiesAway 0x3F803000 = narrow .tiesEven 0x3F803000 := by decide

/-- Finite inputs with `e32 >= 1` at both ends, and candidates of the three kinds. -/
theorem witness_NarrowIsNearest :
    ((∃ x, val32 0x00800000 = some (.finite x)) ∧ 1 ≤ exp32 0x00800000) ∧
    ((∃ x, val32 0xFF7FFFFF = some (.finite x)) ∧ 1 ≤ exp32 0xFF7FFFFF) ∧
    RoundingCandidate 0 ∧ RoundingCandidate 65504 ∧ RoundingCandidate (2 ^ 16) :=
  ⟨⟨⟨_, val32_of_finite (by decide)⟩, by decide⟩, ⟨⟨_, val32_of_finite (by decide)⟩, by decide⟩,
    .inl rfl, .inr (.inl ⟨0x7BFF, test_val16_largest, by norm_num⟩), .inr (.inr rfl)⟩

theorem witness_NarrowInfinityAndZeroThresholds :
    (∃ x, val32 0x477FF000 = some (.finite x)) ∧ (∃ x, val32 0x33000000 = some (.finite x)) :=
  ⟨⟨_, val32_of_finite (by decide)⟩, ⟨_, val32_of_finite (by decide)⟩⟩

theorem witness_NarrowIsMonotoneAndOdd :
    (0x477FEFFF : SingleWord).toNat ≤ (0x7F800000 : SingleWord).toNat ∧
      (0x7F800000 : SingleWord).toNat ≤ 0x7F800000 := by decide

/-- The first input of a row and the one before it. -/
theorem witness_NarrowBoundaryInputs :
    (0x33000000 : SingleWord).toNat ≤ 0x7F800000 ∧ (0x32FFFFFF : SingleWord).toNat ≤ 0x7F800000 ∧
    narrow .tiesAway 0x33000000 = 0x0001 ∧ narrow .tiesAway 0x32FFFFFF = 0x0000 := by decide

theorem witness_SubnormalShiftBoundIsExact :
    ((∃ x, val32 0x33000000 = some (.finite x)) ∧ exp32 0x33000000 = 102) ∧
    ((∃ x, val32 0x387FFFFF = some (.finite x)) ∧ exp32 0x387FFFFF = 112) ∧
    ((∃ x, val32 0x32FFFFFF = some (.finite x)) ∧ exp32 0x32FFFFFF = 101) :=
  ⟨⟨⟨_, val32_of_finite (by decide)⟩, by decide⟩, ⟨⟨_, val32_of_finite (by decide)⟩, by decide⟩,
    ⟨⟨_, val32_of_finite (by decide)⟩, by decide⟩⟩

theorem witness_WidenOfNormalized :
    bothShown.powered = true ∧
    (1 ≤ exp16 0x0400 ∧ exp16 0x0400 ≤ 30) ∧ (1 ≤ exp16 0xFBFF ∧ exp16 0xFBFF ≤ 30) := by decide

theorem witness_WidenOfInfinityAndNaN :
    bothShown.powered = true ∧
    exp16 0xFC00 = 31 ∧ exp16 0x7C01 = 31 ∧ isSignallingNaN16 0x7C01 = true ∧
      isQuietNaN16 0x7E00 = true := by decide

theorem witness_WidenOfZero :
    bothShown.powered = true ∧
    (exp16 0x0000 = 0 ∧ man16 0x0000 = 0) ∧ (exp16 0x8000 = 0 ∧ man16 0x8000 = 0) := by decide

theorem witness_WidenOfSubnormal :
    bothShown.powered = true ∧
    (exp16 0x8001 = 0 ∧ 2 ^ 0 ≤ man16 0x8001 ∧ man16 0x8001 < 2 ^ (0 + 1)) ∧
    (exp16 0x03FF = 0 ∧ 2 ^ 9 ≤ man16 0x03FF ∧ man16 0x03FF < 2 ^ (9 + 1)) := by decide

theorem witness_WidenIsInjective : widen 0x7C01 = widen 0x7C01 := rfl

/-- Each clause: a number, an infinity, the sentinel; and a NaN that does not come back. -/
theorem witness_WidenThenNarrowRoundTrip :
    bothShown.powered = true ∧
    exp16 0x0001 ≠ 31 ∧ man16 0xFC00 = 0 ∧ man16 0xFE00 = 0x200 ∧
    (exp16 0x7C01 = 31 ∧ man16 0x7C01 ≠ 0 ∧ man16 0x7C01 ≠ 0x200) := by decide

theorem witness_IgnoredOperandBitsHaveNoEffect :
    bothShown.powered = true ∧
    (0x1FFFF3C00 : Request).getLsbD 32 = true ∧ (0x100003C00 : Request).getLsbD 32 = true ∧
    (0x1FFFF3C00 : Request).extractLsb' 0 16 = (0x100003C00 : Request).extractLsb' 0 16 := by decide

theorem witness_ResponseIsTheResultOfTheOperand :
    (bothShown.applyEvent (.present 0x0FF800000)).powered = true ∧
    (bothShown.applyEvent (.present 0x0FF800000)).request = some 0x0FF800000 ∧
    (0x0FF800000 : Request).getLsbD 32 = false ∧
    (bothShown.applyEvent (.present 0x17FFF7E00)).request = some 0x17FFF7E00 ∧
    (0x17FFF7E00 : Request).getLsbD 32 = true := by decide

theorem witness_EvaluationIsIdempotentAndDeterministic :
    bothShown.powered = true ∧ (built .tiesEven).powered = true ∧
      exec (.toFloat16 0x3F801000) bothShown =
        .next ((bothShown.evalNarrow 0x3F801000).respond 0x3C00) ∧
      (built .tiesEven).build = bothShown.build ∧
      exec (.toFloat16 0x3F801000) (built .tiesEven) =
        .next (((built .tiesEven).evalNarrow 0x3F801000).respond 0x3C00) := ⟨rfl, rfl, rfl, rfl, rfl⟩

/-- A state with power, for the statements with no other hypothesis on it too. -/
theorem witness_PortViewEqualsRequestView : bothShown.powered = true ∧ bothShown.request = none := by decide

/-- A block without power whose outputs are unspecified, actions that do not give it back, and a request it is
asked. -/
theorem witness_UnpoweredOutputsAreUnspecified :
    let s := bothShown.applyEvent .powerDown
    s.powered = false ∧ s.f16Out = none ∧ s.f32Out = none ∧ s.request = none ∧
      Action.event .powerUp ∉ [Action.event (.driveF32In 0x3F800000), .event (.present 0x100000001), .step] := by
  decide

/-- 60_exceptions.md R82: the outputs of a block asked without power are unspecified, and the next step after the
power returns shows the conversion of the input that stands there. -/
theorem test_power_returns :
    (match runActions bothShown
        [.event .powerDown, .event (.present 0x1FFFF0001), .step, .event .powerUp] with
      | .next t => t.f32Out == none && t.f16In == some 0x0001 && t.settle.f32Out == some 0x33800000
      | .fault _ => false
      | .refused _ => false) = true := by decide

theorem witness_ChangedInputLeavesItsOutputUnspecified :
    bothShown.f32In ≠ some 0x3F800000 ∧ bothShown.f32In ≠ none ∧
    bothShown.f16In ≠ some 0x0400 ∧ bothShown.f16In ≠ none := by decide

theorem witness_OverflowShowsAsInfinity :
    narrowArises .tiesAway 0x477FF000 .overflow = true ∧
      narrowArises .tiesAway 0x477FEFFF .overflow = false := by decide

theorem witness_ToFloat16NextState :
    bothShown.powered = true ∧ (bothShown.applyEvent .powerDown).powered = false := by decide

end Sys2Proof.Tests
end

section
/-! Requests in a row (20_memory.md R24): a presented request gets its own response, and what the next request's
response is read from, the power and the build, stays as it was. -/

namespace Sys2Proof.Machine

/-- A request presented to a block with power completes with its own response, and keeps the power and the
build. -/
theorem step_present_of_powered (q : Request) {s : State} (hp : s.powered = true) :
    ∃ t, step (s.applyEvent (.present q)) = .next t ∧
      t.response = some (responseTo s.build.tieMode q) ∧ t.powered = true ∧ t.build = s.build := by
  have hstep : step (s.applyEvent (.present q)) = exec (decode q) (s.applyEvent (.present q)).settle :=
    step_of_request rfl
  have hsettled : (s.applyEvent (.present q)).settle.powered = true := hp
  rw [hstep, responseTo]
  cases decode q with
  | toFloat16 a => exact ⟨_, exec_toFloat16_powered a hsettled, rfl, hp, rfl⟩
  | toFloat32 ignored h => exact ⟨_, exec_toFloat32_powered ignored h hsettled, rfl, hp, rfl⟩

/-- `responsesOf` on a request whose step completes. -/
theorem responsesOf_cons_of_step {s t : State} {q : Request} (rest : List Request)
    (h : step (s.applyEvent (.present q)) = .next t) :
    responsesOf s (q :: rest) = t.response :: responsesOf t rest := by rw [responsesOf, h]

/-- Settles O51, by induction on the requests, for every state with power: each step answers its request and
keeps the power and the build, which is all that the rest of the list reads. -/
theorem eachRequestIsAnsweredAsIfAlone : Obligations.EachRequestIsAnsweredAsIfAlone := by
  intro s qs hp
  induction qs generalizing s with
  | nil => rfl
  | cons q rest ih =>
    obtain ⟨t, hstep, hresponse, hpowered, hbuild⟩ := step_present_of_powered q hp
    rw [responsesOf_cons_of_step rest hstep, hresponse, ih t hpowered, hbuild, List.map_cons]

end Sys2Proof.Machine
end

section
/-! The fields of the two formats as bit ranges (30_encoding.md R29, R32): each shift-and-mask accessor is the
number of its range of the word, and adjacent ranges put the word together again. -/

namespace Sys2Proof.Machine

/-! ### Accessors as bit ranges -/

theorem sign16_eq_toNat_bits (h : HalfWord) : sign16 h = (h.extractLsb' 15 1).toNat := by
  have hb := h.isLt
  rw [sign16_eq, BitVec.extractLsb'_toNat, Nat.shiftRight_eq_div_pow]
  omega

theorem exp16_eq_toNat_bits (h : HalfWord) : exp16 h = (h.extractLsb' 10 5).toNat := by
  rw [exp16_eq, BitVec.extractLsb'_toNat, Nat.shiftRight_eq_div_pow]

theorem man16_eq_toNat_bits (h : HalfWord) : man16 h = (h.extractLsb' 0 10).toNat := by
  rw [man16_eq, BitVec.extractLsb'_toNat, Nat.shiftRight_zero]

theorem sign32_eq_toNat_bits (f : SingleWord) : sign32 f = (f.extractLsb' 31 1).toNat := by
  have hb := f.isLt
  rw [sign32_eq, BitVec.extractLsb'_toNat, Nat.shiftRight_eq_div_pow]
  omega

theorem exp32_eq_toNat_bits (f : SingleWord) : exp32 f = (f.extractLsb' 23 8).toNat := by
  rw [exp32_eq, BitVec.extractLsb'_toNat, Nat.shiftRight_eq_div_pow]

theorem man32_eq_toNat_bits (f : SingleWord) : man32 f = (f.extractLsb' 0 23).toNat := by
  rw [man32_eq, BitVec.extractLsb'_toNat, Nat.shiftRight_zero]

/-! ### A word is the ranges it is cut into -/

/-- A word cut into three adjacent ranges, of any widths, is their concatenation. -/
theorem append_three_ranges {a b c : Nat} (x : BitVec (a + b + c)) :
    x.extractLsb' (b + c) a ++ x.extractLsb' c b ++ x.extractLsb' 0 c = x := by
  have hhigh : x.extractLsb' (b + c) a ++ x.extractLsb' c b = x.extractLsb' c (a + b) :=
    BitVec.extractLsb'_append_extractLsb'_eq_extractLsb' (by omega)
  rw [hhigh, BitVec.extractLsb'_append_extractLsb'_eq_extractLsb' (by omega), BitVec.extractLsb'_eq_self]

/-- A word is its binary16 fields in order. -/
theorem fields16_append (h : HalfWord) :
    h = BitVec.ofNat 1 (sign16 h) ++ BitVec.ofNat 5 (exp16 h) ++ BitVec.ofNat 10 (man16 h) := by
  rw [sign16_eq_toNat_bits, exp16_eq_toNat_bits, man16_eq_toNat_bits]
  simp only [BitVec.ofNat_toNat, BitVec.setWidth_eq]
  exact (append_three_ranges (a := 1) (b := 5) (c := 10) h).symm

/-- A word is its binary32 fields in order. -/
theorem fields32_append (f : SingleWord) :
    f = BitVec.ofNat 1 (sign32 f) ++ BitVec.ofNat 8 (exp32 f) ++ BitVec.ofNat 23 (man32 f) := by
  rw [sign32_eq_toNat_bits, exp32_eq_toNat_bits, man32_eq_toNat_bits]
  simp only [BitVec.ofNat_toNat, BitVec.setWidth_eq]
  exact (append_three_ranges (a := 1) (b := 8) (c := 23) f).symm

/-- Settles O17: each accessor is the number of its bit range, and three adjacent ranges make the word. -/
theorem halfWordFieldsAreItsBits : Obligations.HalfWordFieldsAreItsBits := fun h =>
  ⟨sign16_eq_toNat_bits h, exp16_eq_toNat_bits h, man16_eq_toNat_bits h, fields16_append h⟩

/-- Settles O18: each accessor is the number of its bit range, and three adjacent ranges make the word. -/
theorem singleWordFieldsAreItsBits : Obligations.SingleWordFieldsAreItsBits := fun f =>
  ⟨sign32_eq_toNat_bits f, exp32_eq_toNat_bits f, man32_eq_toNat_bits f, fields32_append f⟩

end Sys2Proof.Machine
end

section
/-! The ignored half of a `TOFLOAT32` operand (30_encoding.md R39): the decoder keeps it in the instruction, and
no meaning reads it. -/

namespace Sys2Proof.Machine

/-- A request with `q[32] = 1` is `TOFLOAT32` on its low half. -/
theorem decode_of_op {q : Request} (hop : q.getLsbD 32 = true) :
    decode q = .toFloat32 (q.extractLsb' 16 16) (q.extractLsb' 0 16) := by
  have hhigh : (Request.operand q).extractLsb' 16 16 = q.extractLsb' 16 16 :=
    BitVec.extractLsb'_extractLsb'_of_le (by omega)
  have hlow : (Request.operand q).extractLsb' 0 16 = q.extractLsb' 0 16 :=
    BitVec.extractLsb'_extractLsb'_of_le (by omega)
  rw [decode, Request.op, if_pos hop, hhigh, hlow]

/-- A step asked `TOFLOAT32` evaluates the widening datapath on the low half and responds with what it shows. -/
theorem step_toFloat32_request {q : Request} (s : State) (hop : q.getLsbD 32 = true) :
    step { s with request := some q } =
      .next (s.settle.evalWiden (q.extractLsb' 0 16)).respondWiden := by
  have hstep : step { s with request := some q } = exec (decode q) s.settle := step_of_request rfl
  rw [hstep, decode_of_op hop, exec_toFloat32]

/-- With power, `TOFLOAT32` responds with `WIDEN` of its input. -/
theorem respondWiden_evalWiden_response (h : HalfWord) {s : State} (hp : s.powered = true) :
    (s.evalWiden h).respondWiden.response = some (widen h) := by
  have hout : (s.evalWiden h).f32Out = some (widen h) := by simp [hp]
  rw [respondWiden_of_some hout]
  rfl

/-- Settles O49: the next state is a function of the low half, so requests with equal low halves share it. -/
theorem ignoredOperandBitsHaveNoEffect : Obligations.IgnoredOperandBitsHaveNoEffect := by
  intro s q r hq hr hlow
  refine ⟨_, step_toFloat32_request s hq, ?_, fun hp => respondWiden_evalWiden_response _ hp⟩
  rw [step_toFloat32_request s hr, hlow]

end Sys2Proof.Machine
end

section
/-! The narrowing datapath case by case (40_narrow.md R46 to R53): which case the tests select, the magnitude of
each case, and the result word that `TOFLOAT16` completes with. -/

namespace Sys2Proof.Machine

/-! ### The tests of R47 on `newexp` -/

theorem narrowCase_eq_overflow {e32 : Nat} (hmax : e32 ≠ 255) (hnew : 31 ≤ rebias e32) :
    narrowCase e32 = .overflow := by
  have hzero : e32 ≠ 0 := by unfold rebias at hnew; omega
  rw [narrowCase, if_neg hzero, if_neg hmax, if_pos hnew]

theorem narrowCase_eq_subnormalOut {e32 : Nat} (hzero : e32 ≠ 0) (hnew : rebias e32 ≤ 0)
    (hshift : 14 - rebias e32 ≤ 24) : narrowCase e32 = .subnormalOut := by
  have hmax : e32 ≠ 255 := by unfold rebias at hnew; omega
  rw [narrowCase, if_neg hzero, if_neg hmax, if_neg (by omega), if_pos hnew, if_pos hshift]

theorem narrowCase_eq_underflowToZero {e32 : Nat} (hzero : e32 ≠ 0) (hshift : 24 < 14 - rebias e32) :
    narrowCase e32 = .underflowToZero := by
  have hmax : e32 ≠ 255 := by unfold rebias at hshift; omega
  rw [narrowCase, if_neg hzero, if_neg hmax, if_neg (by omega), if_pos (by omega), if_neg (by omega)]

theorem narrowCase_eq_normalOut {e32 : Nat} (hlow : 0 < rebias e32) (hhigh : rebias e32 < 31) :
    narrowCase e32 = .normalOut := by
  have hzero : e32 ≠ 0 := by unfold rebias at hlow; omega
  have hmax : e32 ≠ 255 := by unfold rebias at hhigh; omega
  rw [narrowCase, if_neg hzero, if_neg hmax, if_neg (by omega), if_neg (by omega)]

/-- Settles O21: the model's `rebias` is the statement's `newexp`, and each test selects its case. -/
theorem narrowCaseByTheTestsOnNewexp : Obligations.NarrowCaseByTheTestsOnNewexp := by
  intro e32 hle
  refine ⟨fun h => by rw [h]; rfl, fun h => by rw [h]; rfl, fun hzero hmax => ?_⟩
  exact ⟨by omega, by omega,
    narrowCase_eq_overflow hmax,
    narrowCase_eq_subnormalOut hzero,
    fun _ => narrowCase_eq_underflowToZero hzero,
    narrowCase_eq_normalOut⟩

/-! ### The magnitude of each case -/

theorem narrowMag_of_zeroOrSubnormalIn (mode : TieMode) (m32 : Nat) : narrowMag mode 0 m32 = 0x0000 := rfl

theorem narrowMag_of_infinity (mode : TieMode) : narrowMag mode 255 0 = 0x7C00 := rfl

theorem narrowMag_of_nan (mode : TieMode) {m32 : Nat} (hm : m32 ≠ 0) : narrowMag mode 255 m32 = 0x7E00 :=
  if_neg hm

theorem narrowMag_of_overflow (mode : TieMode) {e32 : Nat} (m32 : Nat) (hc : narrowCase e32 = .overflow) :
    narrowMag mode e32 m32 = 0x7C00 := by rw [narrowMag, hc]

theorem narrowMag_of_underflowToZero (mode : TieMode) {e32 : Nat} (m32 : Nat)
    (hc : narrowCase e32 = .underflowToZero) : narrowMag mode e32 m32 = 0x0000 := by rw [narrowMag, hc]

/-- The subnormal case, with the shift amount named as the spec names it. -/
theorem narrowMag_of_subnormalOut (mode : TieMode) {e32 sh : Nat} (m32 : Nat)
    (hsh : (sh : Int) = 14 - rebias e32) (hc : narrowCase e32 = .subnormalOut) :
    narrowMag mode e32 m32 = roundRetained mode (subnormalRetained sh m32) := by
  rw [narrowMag, hc, ← hsh, Int.toNat_natCast]

/-- The normal case, with the result's exponent named as the spec names it. -/
theorem narrowMag_of_normalOut (mode : TieMode) {e32 newexp : Nat} (m32 : Nat)
    (hnew : (newexp : Int) = rebias e32) (hc : narrowCase e32 = .normalOut) :
    narrowMag mode e32 m32 = roundRetained mode (normalRetained newexp m32) := by
  rw [narrowMag, hc, ← hnew, Int.toNat_natCast]

/-! ### Rounding in plain arithmetic (R54) -/

/-- The increment, when the round bit is the parity of `n` and the sticky bit says whether `P` holds. -/
theorem roundIncrement_eq (mode : TieMode) {r : Retained} {n : Nat} {P : Prop} [Decidable P]
    (hrb : r.rb = decide (n % 2 = 1)) (hsticky : r.sticky = decide P) :
    roundIncrement mode r =
      if mode = .tiesAway then n % 2 else if n % 2 = 1 ∧ (P ∨ r.t % 2 = 1) then 1 else 0 := by
  cases mode with
  | tiesAway =>
    rw [roundIncrement, hrb, if_pos rfl]
    rcases Nat.mod_two_eq_zero_or_one n with h | h <;> simp [h]
  | tiesEven =>
    rw [roundIncrement, hrb, hsticky, lsb_eq, ← Bool.decide_or, ← Bool.decide_and, if_neg (by decide)]
    exact Bool.cond_decide _ 1 0

theorem roundRetained_subnormalRetained (mode : TieMode) (sh : Nat) {m32 : Nat} (hm : m32 < 2 ^ 23) :
    roundRetained mode (subnormalRetained sh m32) =
      (2 ^ 23 + m32) / 2 ^ sh +
        if mode = .tiesAway then (2 ^ 23 + m32) / 2 ^ (sh - 1) % 2
        else if (2 ^ 23 + m32) / 2 ^ (sh - 1) % 2 = 1 ∧
          ((2 ^ 23 + m32) % 2 ^ (sh - 1) ≠ 0 ∨ (2 ^ 23 + m32) / 2 ^ sh % 2 = 1) then 1 else 0 := by
  rw [roundRetained, roundIncrement_eq mode (subnormalRetained_rb sh hm) (subnormalRetained_sticky sh hm),
    subnormalRetained_t sh hm]

theorem roundRetained_normalRetained (mode : TieMode) (newexp : Nat) {m32 : Nat} (hm : m32 < 2 ^ 23) :
    roundRetained mode (normalRetained newexp m32) =
      newexp * 2 ^ 10 + m32 / 2 ^ 13 +
        if mode = .tiesAway then m32 / 2 ^ 12 % 2
        else if m32 / 2 ^ 12 % 2 = 1 ∧ (m32 % 2 ^ 12 ≠ 0 ∨ m32 / 2 ^ 13 % 2 = 1) then 1 else 0 := by
  have hlsb : (newexp * 2 ^ 10 + m32 / 2 ^ 13) % 2 = m32 / 2 ^ 13 % 2 := by omega
  rw [roundRetained, roundIncrement_eq mode (normalRetained_rb newexp m32) (normalRetained_sticky newexp m32),
    normalRetained_t newexp hm, hlsb]

/-- A 24-bit significand shifted right by at least 14 leaves the exponent field 0 (R51). -/
theorem significand_div_le {m32 sh : Nat} (hm : m32 < 2 ^ 23) (hsh : 14 ≤ sh) :
    (2 ^ 23 + m32) / 2 ^ sh ≤ 0x3FF :=
  calc (2 ^ 23 + m32) / 2 ^ sh
      ≤ (2 ^ 23 + m32) / 2 ^ 14 := Nat.div_le_div_left (Nat.pow_le_pow_right (by omega) hsh) (by omega)
    _ ≤ 0x3FF := by omega

/-! ### Signs as bits -/

theorem sign16_eq_toNat_getLsbD (h : HalfWord) : sign16 h = (h.getLsbD 15).toNat := by
  have hb := h.isLt
  rw [sign16_eq, BitVec.getLsbD, Nat.toNat_testBit]
  omega

theorem sign32_eq_toNat_getLsbD (f : SingleWord) : sign32 f = (f.getLsbD 31).toNat := by
  have hb := f.isLt
  rw [sign32_eq, BitVec.getLsbD, Nat.toNat_testBit]
  omega

/-- R46: the sign bit is copied in every case. -/
theorem narrow_signBit (mode : TieMode) (f : SingleWord) :
    (narrow mode f).getLsbD 15 = f.getLsbD 31 := by
  have hsign : sign16 (narrow mode f) = sign32 f :=
    sign16_withSign16 (sign32_lt f) (narrowMag_lt mode (man32_lt f))
  rw [sign16_eq_toNat_getLsbD, sign32_eq_toNat_getLsbD] at hsign
  simpa only [Bool.ofNat_toNat] using congrArg Bool.ofNat hsign

/-! ### What `TOFLOAT16` completes with -/

section
variable {a : SingleWord} {s : State} {mag : Nat}

theorem narrowAnswers_narrow (a : SingleWord) (hp : s.powered = true) :
    NarrowAnswers s a (narrow s.build.tieMode a) :=
  ⟨_, exec_toFloat16_powered a hp, rfl, rfl⟩

/-- The result is the operand's sign above the magnitude of its fields. -/
theorem narrowAnswers_of_narrowMag (hp : s.powered = true)
    (hmag : narrowMag s.build.tieMode (exp32 a) (man32 a) = mag) :
    NarrowAnswers s a (BitVec.ofNat 16 (sign32 a * 2 ^ 15 + mag)) := by
  have hword : BitVec.ofNat 16 (sign32 a * 2 ^ 15 + mag) = narrow s.build.tieMode a := by
    rw [← hmag, ← narrow_toNat, BitVec.ofNat_toNat, BitVec.setWidth_eq]
  exact hword ▸ narrowAnswers_narrow a hp

/-- The result of a fixed magnitude is one of two words, by the operand's sign bit. -/
theorem narrowAnswers_bySign (hp : s.powered = true)
    (hmag : narrowMag s.build.tieMode (exp32 a) (man32 a) = mag) :
    NarrowAnswers s a (if a.getLsbD 31 then BitVec.ofNat 16 (2 ^ 15 + mag) else BitVec.ofNat 16 mag) := by
  have hans := narrowAnswers_of_narrowMag hp hmag
  rw [sign32_eq_toNat_getLsbD] at hans
  cases hbit : a.getLsbD 31 with
  | false =>
    rw [hbit, Bool.toNat_false, zero_mul, zero_add] at hans
    exact hans
  | true =>
    rw [hbit, Bool.toNat_true, one_mul] at hans
    exact hans

end

/-- Settles O23: the result is `NARROW` of the operand, which copies the sign bit. -/
theorem narrowCopiesTheSign : Obligations.NarrowCopiesTheSign := fun a _ hp =>
  ⟨_, narrowAnswers_narrow a hp, narrow_signBit _ a⟩

/-- Settles O24: exponent field 0 has magnitude 0. -/
theorem narrowFlushesZeroAndSubnormalInputs : Obligations.NarrowFlushesZeroAndSubnormalInputs := by
  intro a s hp he
  exact narrowAnswers_bySign hp (he ▸ narrowMag_of_zeroOrSubnormalIn _ _)

/-- Settles O25: exponent field 255 has the magnitude of infinity or of the sentinel, by the mantissa. -/
theorem narrowOfInfinityAndNaN : Obligations.NarrowOfInfinityAndNaN := by
  intro a s hp he
  constructor
  · intro hm
    exact narrowAnswers_bySign hp (by rw [he, hm, narrowMag_of_infinity])
  · intro hm
    exact narrowAnswers_bySign hp (by rw [he, narrowMag_of_nan _ hm])

/-- Settles O26: from `newexp = 31` on the tests select OVERFLOW. -/
theorem narrowOverflowGivesInfinity : Obligations.NarrowOverflowGivesInfinity := by
  intro a s hp hmax hnew
  exact narrowAnswers_bySign hp (narrowMag_of_overflow _ _ (narrowCase_eq_overflow hmax hnew))

/-- Settles O28: up to `newexp = -11` the shift exceeds 24 and the tests select UNDERFLOW_TO_ZERO. -/
theorem narrowUnderflowGivesZero : Obligations.NarrowUnderflowGivesZero := by
  intro a s hp hzero hnew
  have hrebias : rebias (exp32 a) ≤ -11 := hnew
  have hc : narrowCase (exp32 a) = .underflowToZero := narrowCase_eq_underflowToZero hzero (by omega)
  exact narrowAnswers_bySign hp (narrowMag_of_underflowToZero _ _ hc)

/-- Settles O27: the shift selects SUBNORMAL_OUT, whose retained field and round bits are those of the shifted
significand. -/
theorem narrowToSubnormalRounds : Obligations.NarrowToSubnormalRounds := by
  intro a s sh hp hsh hlow hhigh
  have hm : man32 a < 2 ^ 23 := man32_lt a
  have hrebias : (sh : Int) = 14 - rebias (exp32 a) := hsh
  have hc : narrowCase (exp32 a) = .subnormalOut :=
    narrowCase_eq_subnormalOut (by omega) (by omega) (by omega)
  refine ⟨significand_div_le hm hlow, ?_, narrowAnswers_of_narrowMag hp ?_⟩
  · rintro rfl
    omega
  · rw [narrowMag_of_subnormalOut _ _ hrebias hc, roundRetained_subnormalRetained _ _ hm]

/-- Settles O29: `newexp` selects NORMAL_OUT, whose retained field is `newexp` above the top ten mantissa bits. -/
theorem narrowToNormalRounds : Obligations.NarrowToNormalRounds := by
  intro a s newexp hp hnew hlow hhigh
  have hm : man32 a < 2 ^ 23 := man32_lt a
  have hrebias : (newexp : Int) = rebias (exp32 a) := hnew
  have hc : narrowCase (exp32 a) = .normalOut := narrowCase_eq_normalOut (by omega) (by omega)
  refine ⟨by omega, by omega, narrowAnswers_of_narrowMag hp ?_⟩
  rw [narrowMag_of_normalOut _ _ hrebias hc, roundRetained_normalRetained _ _ hm]

end Sys2Proof.Machine
end

section
/-! The value of a widened word (41_widen.md R67 to R69): the fields of each case of `WIDEN` denote what the
binary16 input denotes, so `TOFLOAT32` answers without rounding and from its input alone. -/

namespace Sys2Proof.Machine

/-! ### The fields of a widened word -/

theorem sign32_widen (h : HalfWord) : sign32 (widen h) = sign16 h :=
  sign32_withSign32 (sign16_lt h) (widenMag_lt (exp16_lt h) (man16_lt h))

/-- A magnitude split at bit 23 gives the exponent and the mantissa of the widened word. -/
theorem fields32_widen {h : HalfWord} {e m : Nat} (hmag : widenMag (exp16 h) (man16 h) = e * 2 ^ 23 + m)
    (hm : m < 2 ^ 23) : exp32 (widen h) = e ∧ man32 (widen h) = m := by
  have hlt : widenMag (exp16 h) (man16 h) < 2 ^ 31 := widenMag_lt (exp16_lt h) (man16_lt h)
  have hexp : exp32 (widen h) = widenMag (exp16 h) (man16 h) / 2 ^ 23 := exp32_withSign32 (sign16_lt h) hlt
  have hman : man32 (widen h) = widenMag (exp16 h) (man16 h) % 2 ^ 23 := man32_withSign32 (sign16_lt h) hlt
  rw [hexp, hman, hmag]
  omega

theorem fields32_widen_of_infOrNan {h : HalfWord} (he : exp16 h = 31) :
    exp32 (widen h) = 255 ∧ man32 (widen h) = man16 h * 2 ^ 13 := by
  have hm : man16 h < 1024 := man16_lt h
  exact fields32_widen (by rw [he, widenMag_infOrNan hm]) (by omega)

theorem fields32_widen_of_zero {h : HalfWord} (he : exp16 h = 0) (hm : man16 h = 0) :
    exp32 (widen h) = 0 ∧ man32 (widen h) = 0 :=
  fields32_widen (by rw [he, hm, widenMag_zero, zero_mul]) (by norm_num)

theorem fields32_widen_of_subnormal {h : HalfWord} (he : exp16 h = 0) (hm : man16 h ≠ 0) :
    exp32 (widen h) = msbIndex (man16 h) + 103 ∧
      man32 (widen h) = man16 h * 2 ^ (23 - msbIndex (man16 h)) % 2 ^ 23 :=
  fields32_widen (by rw [he, widenMag_subnormal hm]) (Nat.mod_lt _ (by norm_num))

theorem fields32_widen_of_normalized {h : HalfWord} (h0 : exp16 h ≠ 0) (h31 : exp16 h ≠ 31) :
    exp32 (widen h) = exp16 h + 112 ∧ man32 (widen h) = man16 h * 2 ^ 13 := by
  have hm : man16 h < 1024 := man16_lt h
  exact fields32_widen (widenMag_normalized h0 h31 hm) (by omega)

/-! ### Magnitudes -/

/-- The bits of a nonzero binary16 mantissa below its leading one, moved to the top of a binary32 mantissa. -/
theorem normalizedMantissa_eq {m : Nat} (hz : m ≠ 0) (hm : m < 1024) :
    2 ^ 23 + m * 2 ^ (23 - msbIndex m) % 2 ^ 23 = m * 2 ^ (23 - msbIndex m) := by
  obtain ⟨hlow, hhigh⟩ := msbIndex_spec hz
  have hp : msbIndex m ≤ 9 := msbIndex_le_nine hz hm
  have hone : 2 ^ msbIndex m * 2 ^ (23 - msbIndex m) = 2 ^ 23 := by rw [← pow_add]; congr 1; omega
  have hlead : 2 ^ 23 ≤ m * 2 ^ (23 - msbIndex m) := hone ▸ Nat.mul_le_mul_right _ hlow
  have hnext : m * 2 ^ (23 - msbIndex m) < 2 * 2 ^ 23 := by
    rw [← hone, ← mul_assoc, ← pow_succ']
    exact Nat.mul_lt_mul_of_pos_right hhigh (by positivity)
  omega

/-- R66: a normalized subnormal keeps its magnitude. -/
theorem finiteMagnitude32_normalizedMantissa {m : Nat} (hz : m ≠ 0) (hm : m < 1024) :
    finiteMagnitude32 (msbIndex m + 103) (m * 2 ^ (23 - msbIndex m) % 2 ^ 23) = finiteMagnitude16 0 m := by
  have hp : msbIndex m ≤ 9 := msbIndex_le_nine hz hm
  have hmantissa : (2 : Rat) ^ 23 + (m * 2 ^ (23 - msbIndex m) % 2 ^ 23 : Nat)
      = m * 2 ^ (23 - msbIndex m) := by
    exact_mod_cast normalizedMantissa_eq hz hm
  have hscale : (2 : Rat) ^ (23 - msbIndex m) * 2 ^ (((msbIndex m + 103 : Nat) : Int) - 127)
      = 2 ^ 23 * 2 ^ (-24 : Int) := by
    rw [← zpow_natCast, ← zpow_natCast, ← zpow_add₀ two_ne_zero, ← zpow_add₀ two_ne_zero]
    congr 1
    omega
  rw [finiteMagnitude32, if_neg (by omega), finiteMagnitude16, if_pos rfl, one_add_div (by norm_num),
    hmantissa, div_mul_eq_mul_div, mul_assoc, hscale]
  ring

/-- R63: a normalized input keeps its mantissa, and the bias grows with its exponent field. -/
theorem finiteMagnitude32_rebiased {e : Nat} (he : e ≠ 0) (m : Nat) :
    finiteMagnitude32 (e + 112) (m * 2 ^ 13) = finiteMagnitude16 e m := by
  have hexp : ((e + 112 : Nat) : Int) - 127 = e - 15 := by omega
  rw [finiteMagnitude32, if_neg (by omega), finiteMagnitude16, if_neg he, hexp]
  push_cast
  ring

/-- The widened word of a finite input is finite and of the same magnitude. -/
theorem finiteMagnitude32_widen {h : HalfWord} (he : exp16 h ≠ 31) :
    exp32 (widen h) ≠ 255 ∧
      finiteMagnitude32 (exp32 (widen h)) (man32 (widen h)) = finiteMagnitude16 (exp16 h) (man16 h) := by
  have hrange : exp16 h < 32 := exp16_lt h
  have hm : man16 h < 1024 := man16_lt h
  by_cases h0 : exp16 h = 0
  · by_cases hz : man16 h = 0
    · obtain ⟨hexp, hman⟩ := fields32_widen_of_zero h0 hz
      rw [hexp, hman, h0, hz]
      simp [finiteMagnitude32, finiteMagnitude16]
    · obtain ⟨hexp, hman⟩ := fields32_widen_of_subnormal h0 hz
      have hp : msbIndex (man16 h) ≤ 9 := msbIndex_le_nine hz hm
      rw [hexp, hman, h0]
      exact ⟨by omega, finiteMagnitude32_normalizedMantissa hz hm⟩
  · obtain ⟨hexp, hman⟩ := fields32_widen_of_normalized h0 he
    rw [hexp, hman]
    exact ⟨by omega, finiteMagnitude32_rebiased h0 _⟩

/-! ### Values -/

/-- R68, property 1: widening keeps the value, an infinity with its sign and a NaN without one. -/
theorem val32_widen (h : HalfWord) : val32 (widen h) = val16 h := by
  by_cases he : exp16 h = 31
  · obtain ⟨hexp, hman⟩ := fields32_widen_of_infOrNan he
    by_cases hm : man16 h = 0
    · rw [val32_of_infinite hexp (by omega), val16_of_infinite he hm, sign32_widen]
    · rw [val32_of_nan hexp (by omega), val16_of_nan he hm]
  · obtain ⟨hexp, hmagnitude⟩ := finiteMagnitude32_widen he
    rw [val32_of_finite hexp, val16_of_finite he, sign32_widen, hmagnitude]

/-- Settles O45: with power both next states show `widen h`, which keeps the value of `h`. -/
theorem widenDependsOnItsInputAlone : Obligations.WidenDependsOnItsInputAlone := fun i i' h _ _ hp hp' =>
  ⟨_, _, widen h, exec_toFloat32_powered i h hp, exec_toFloat32_powered i' h hp', rfl, rfl, rfl, rfl,
    val32_widen h⟩

end Sys2Proof.Machine
end

section
/-! Requests as words (30_encoding.md section 2 and 3): the operation bit of a request, what each value of it
decodes to, and the two directions in which decoding and encoding undo each other. -/

namespace Sys2Proof.Machine

/-- A request with `q[32] = 0` is `TOFLOAT16` on its whole operand word. -/
theorem decode_of_not_op {q : Request} (hop : q.getLsbD 32 = false) :
    decode q = .toFloat16 (q.extractLsb' 0 32) := by
  rw [decode, Request.op, hop]
  rfl

/-- Settles O1: one clause for each value of the operation bit. -/
theorem decodeIsSelectedByOperationBit : Obligations.DecodeIsSelectedByOperationBit := fun _ =>
  ⟨decode_of_not_op, decode_of_op⟩

/-- Settles O2: seven closed words. -/
theorem specRequestWordsDecode : Obligations.SpecRequestWordsDecode := by
  unfold Obligations.SpecRequestWordsDecode
  decide

/-! ### The operation bit and the operand of an encoded instruction -/

theorem encode_toFloat16_op (a : SingleWord) : (encode (.toFloat16 a)).getLsbD 32 = false := by
  rw [encode, BitVec.getLsbD_append]
  rfl

theorem encode_toFloat32_op (ignored h : BitVec 16) : (encode (.toFloat32 ignored h)).getLsbD 32 = true := by
  rw [encode, BitVec.getLsbD_append, BitVec.getLsbD_append]
  rfl

theorem decode_encode_toFloat16 (a : SingleWord) : decode (encode (.toFloat16 a)) = .toFloat16 a := by
  have hoperand : (encode (.toFloat16 a)).extractLsb' 0 32 = a := BitVec.extractLsb'_append_eq_right
  rw [decode_of_not_op (encode_toFloat16_op a), hoperand]

theorem decode_encode_toFloat32 (ignored h : BitVec 16) :
    decode (encode (.toFloat32 ignored h)) = .toFloat32 ignored h := by
  have hlow : (encode (.toFloat32 ignored h)).extractLsb' 0 16 = h := BitVec.extractLsb'_append_eq_right
  have hhigh : (encode (.toFloat32 ignored h)).extractLsb' 16 16 = ignored :=
    calc (1#1 ++ ignored ++ h).extractLsb' 16 16
        = (1#1 ++ ignored).extractLsb' 0 16 := BitVec.extractLsb'_append_eq_of_le (le_refl 16)
      _ = ignored := BitVec.extractLsb'_append_eq_right
  rw [decode_of_op (encode_toFloat32_op ignored h), hlow, hhigh]

/-- Settles O3, by the instruction's constructor. -/
theorem decodeOfEncodeIsIdentity : Obligations.DecodeOfEncodeIsIdentity := by
  intro i _
  cases i with
  | toFloat16 a => exact decode_encode_toFloat16 a
  | toFloat32 ignored h => exact decode_encode_toFloat32 ignored h

/-- The top bit of a request is its operation bit. -/
theorem request_topBit (q : Request) : q.extractLsb' 32 1 = BitVec.ofBool (q.getLsbD 32) := by
  apply BitVec.eq_of_getLsbD_eq
  intro i hi
  have hzero : i = 0 := by omega
  subst hzero
  simp

/-- Settles O4: the ranges that the decoder cuts out of a word, put back under its operation bit, are the word. -/
theorem encodeOfDecodeIsIdentity : Obligations.EncodeOfDecodeIsIdentity := by
  intro q
  have htop : q.extractLsb' 32 1 = BitVec.ofBool (q.getLsbD 32) := request_topBit q
  cases hop : q.getLsbD 32 with
  | false =>
    have hword : q.extractLsb' 32 1 ++ q.extractLsb' 0 32 = q := BitVec.extractLsb'_append_extractLsb'
    rw [htop, hop] at hword
    rw [decode_of_not_op hop]
    exact hword
  | true =>
    have hword : q.extractLsb' 32 1 ++ q.extractLsb' 16 16 ++ q.extractLsb' 0 16 = q :=
      append_three_ranges (a := 1) (b := 16) (c := 16) q
    rw [htop, hop] at hword
    rw [decode_of_op hop]
    exact hword

/-! ### The opcode map -/

/-- A row whose mask is bit 32 alone compares that bit with its pattern. -/
theorem matchesWord_of_mask {r : OpcodeRow} (hmask : r.mask = BitVec.twoPow 33 32) (q : Request) :
    r.matchesWord q = ((if q.getLsbD 32 then BitVec.twoPow 33 32 else 0#33) == r.pattern) := by
  rw [OpcodeRow.matchesWord, hmask, BitVec.and_twoPow]

/-- Settles O5: both rows' mask is bit 32, so each matches one value of the operation bit. -/
theorem opcodeMapCoversEveryWordOnce : Obligations.OpcodeMapCoversEveryWordOnce := by
  intro q
  have hmatch : ∀ r ∈ opcodeMap, r.matchesWord q =
      ((if q.getLsbD 32 then BitVec.twoPow 33 32 else 0#33) == r.pattern) := by
    intro r hr
    refine matchesWord_of_mask ?_ q
    rcases List.mem_pair.mp hr with rfl | rfl <;> rfl
  cases hop : q.getLsbD 32 with
  | false =>
    rw [hop] at hmatch
    refine ⟨_, .head _, (hmatch _ (.head _)).trans (by decide), by rw [decode_of_not_op hop]; rfl, ?_⟩
    intro r hr hq
    rcases List.mem_pair.mp hr with rfl | rfl
    · rfl
    · exact absurd ((hmatch _ hr).symm.trans hq) (by decide)
  | true =>
    rw [hop] at hmatch
    refine ⟨_, .tail _ (.head _), (hmatch _ (.tail _ (.head _))).trans (by decide),
      by rw [decode_of_op hop]; rfl, ?_⟩
    intro r hr hq
    rcases List.mem_pair.mp hr with rfl | rfl
    · exact absurd ((hmatch _ hr).symm.trans hq) (by decide)
    · rfl

end Sys2Proof.Machine
end

section
/-! Steps and user's actions (70_reset_and_hazards.md R84, R87): every step settles both outputs, no action leaves
an output stale, and a property that steps and actions keep holds along every history. -/

namespace Sys2Proof.Machine

/-! ### Settled outputs -/

theorem settled_settle (s : State) : s.settle.Settled :=
  ⟨fun (hp : s.powered = true) => ⟨poweredLevel_of_powered hp _, poweredLevel_of_powered hp _⟩,
    fun (hp : s.powered = false) => ⟨poweredLevel_of_unpowered hp _, poweredLevel_of_unpowered hp _⟩⟩

/-- `TOFLOAT16` settles `f16_out` to its operand and leaves `f32_out` as it was. -/
theorem settled_evalNarrow_respondNarrow (a : SingleWord) {s : State} (hs : s.Settled) :
    (s.evalNarrow a).respondNarrow.Settled := by
  obtain ⟨hon, hoff⟩ := hs
  constructor
  · intro hp
    simp only [respondNarrow_powered, evalNarrow_powered] at hp
    simp [hp, (hon hp).2]
  · intro hp
    simp only [respondNarrow_powered, evalNarrow_powered] at hp
    simp [hp, (hoff hp).2]

/-- `TOFLOAT32` settles `f32_out` to its operand and leaves `f16_out` as it was. -/
theorem settled_evalWiden_respondWiden (h : HalfWord) {s : State} (hs : s.Settled) :
    (s.evalWiden h).respondWiden.Settled := by
  obtain ⟨hon, hoff⟩ := hs
  constructor
  · intro hp
    simp only [respondWiden_powered, evalWiden_powered] at hp
    simp [hp, (hon hp).1]
  · intro hp
    simp only [respondWiden_powered, evalWiden_powered] at hp
    simp [hp, (hoff hp).1]

/-- Settles O8, by what the step ran: nothing, `TOFLOAT16` or `TOFLOAT32`. -/
theorem everyStepLeavesTheOutputsSettled : Obligations.EveryStepLeavesTheOutputsSettled := by
  intro s t hstep
  obtain ⟨-, rfl⟩ | ⟨q, a, -, -, rfl⟩ | ⟨q, i, b, -, -, rfl⟩ := step_cases hstep
  · exact settled_settle s
  · exact settled_evalNarrow_respondNarrow a (settled_settle s)
  · exact settled_evalWiden_respondWiden b (settled_settle s)

/-! ### What a step completes with and what it leaves unchanged -/

theorem exec_responds (i : Instr) (s : State) : ∃ t y, exec i s = .next t ∧ t.response = some y := by
  cases i with
  | toFloat16 a =>
    cases hp : s.powered with
    | true => exact ⟨_, _, exec_toFloat16_powered a hp, rfl⟩
    | false => exact ⟨_, _, exec_toFloat16_unpowered a hp, rfl⟩
  | toFloat32 ignored h =>
    cases hp : s.powered with
    | true => exact ⟨_, _, exec_toFloat32_powered ignored h hp, rfl⟩
    | false => exact ⟨_, _, exec_toFloat32_unpowered ignored h hp, rfl⟩

theorem step_responds {s : State} {q : Request} (hq : s.request = some q) :
    ∃ t y, step s = .next t ∧ t.response = some y := by
  rw [step_of_request hq]
  exact exec_responds _ _

theorem step_completes (s : State) : ∃ t, step s = .next t := by
  cases hq : s.request with
  | none => exact ⟨_, step_of_no_request hq⟩
  | some q =>
    obtain ⟨t, y, hstep, -⟩ := step_responds hq
    exact ⟨t, hstep⟩

theorem step_frame {s t : State} (hstep : step s = .next t) :
    t.build = s.build ∧ t.powered = s.powered := by
  obtain ⟨-, rfl⟩ | ⟨q, a, -, -, rfl⟩ | ⟨q, i, b, -, -, rfl⟩ := step_cases hstep <;> simp

/-- Settles O12: a presented request responds, and each operation with power shows its result. -/
theorem everyRequestHasAResult : Obligations.EveryRequestHasAResult := by
  refine ⟨fun q s hq => step_responds hq, fun a s => ?_, fun i h s => ?_⟩
  · exact ⟨_, exec_toFloat16 a s, fun hp => ⟨narrow s.build.tieMode a, by simp [hp]⟩⟩
  · exact ⟨_, exec_toFloat32 i h s, fun hp => ⟨widen h, by simp [hp]⟩⟩

/-! ### Coherence -/

theorem coherent_of_unspecified {s : State} (h16 : s.f16Out = none) (h32 : s.f32Out = none) : s.Coherent :=
  ⟨fun _ hout => (nomatch h16.symm.trans hout), fun _ hout => (nomatch h32.symm.trans hout)⟩

theorem coherent_of_settled {s : State} (hs : s.Settled) : s.Coherent := by
  obtain ⟨hon, hoff⟩ := hs
  cases hp : s.powered with
  | false =>
    obtain ⟨h16, h32⟩ := hoff hp
    exact coherent_of_unspecified h16 h32
  | true =>
    obtain ⟨h16, h32⟩ := hon hp
    constructor
    · intro h hout
      rw [h16] at hout
      obtain ⟨f, hin, rfl⟩ := Option.map_eq_some_iff.mp hout
      exact ⟨hp, f, hin, rfl⟩
    · intro f hout
      rw [h32] at hout
      obtain ⟨h, hin, rfl⟩ := Option.map_eq_some_iff.mp hout
      exact ⟨hp, h, hin, rfl⟩

/-- A new level on `f32_in` leaves no stale `f16_out`: either nothing changed, or that output is unspecified. -/
theorem coherent_setF32In (v : Option SingleWord) {s : State} (hs : s.Coherent) : (s.setF32In v).Coherent := by
  obtain ⟨-, hsame⟩ | ⟨-, hchanged⟩ := setF32In_cases v s
  · rw [hsame]; exact hs
  · rw [hchanged]
    exact ⟨fun _ hout => (nomatch hout), hs.2⟩

/-- A new level on `f16_in` leaves no stale `f32_out`: either nothing changed, or that output is unspecified. -/
theorem coherent_setF16In (v : Option HalfWord) {s : State} (hs : s.Coherent) : (s.setF16In v).Coherent := by
  obtain ⟨-, hsame⟩ | ⟨-, hchanged⟩ := setF16In_cases v s
  · rw [hsame]; exact hs
  · rw [hchanged]
    exact ⟨hs.1, fun _ hout => (nomatch hout)⟩

theorem coherent_powerUp {s : State} (hs : s.Coherent) : (s.applyEvent .powerUp).Coherent :=
  ⟨fun h hout => ⟨rfl, (hs.1 h hout).2⟩, fun f hout => ⟨rfl, (hs.2 f hout).2⟩⟩

theorem coherent_applyEvent (e : PortEvent) {s : State} (hs : s.Coherent) : (s.applyEvent e).Coherent := by
  cases e with
  | driveF32In f => exact coherent_setF32In (some f) hs
  | releaseF32In => exact coherent_setF32In none hs
  | driveF16In h => exact coherent_setF16In (some h) hs
  | releaseF16In => exact coherent_setF16In none hs
  | present q => exact hs
  | powerDown => exact coherent_of_unspecified rfl rfl
  | powerUp => exact coherent_powerUp hs

/-- Settles O9: a step settles the outputs, and each action keeps the specified ones coherent. -/
theorem everyActionKeepsTheOutputsCoherent : Obligations.EveryActionKeepsTheOutputsCoherent := fun s hs =>
  ⟨fun t hstep => coherent_of_settled (everyStepLeavesTheOutputsSettled s t hstep),
    fun e => coherent_applyEvent e hs⟩

/-! ### What an action leaves unchanged -/

section
variable (s : State)

@[simp] theorem setF32In_f32In (v : Option SingleWord) : (s.setF32In v).f32In = v := by
  obtain ⟨hv, h⟩ | ⟨-, h⟩ := setF32In_cases v s <;> rw [h]
  exact hv
@[simp] theorem setF32In_build (v : Option SingleWord) : (s.setF32In v).build = s.build := by
  obtain ⟨-, h⟩ | ⟨-, h⟩ := setF32In_cases v s <;> rw [h]
@[simp] theorem setF32In_powered (v : Option SingleWord) : (s.setF32In v).powered = s.powered := by
  obtain ⟨-, h⟩ | ⟨-, h⟩ := setF32In_cases v s <;> rw [h]
@[simp] theorem setF32In_request (v : Option SingleWord) : (s.setF32In v).request = s.request := by
  obtain ⟨-, h⟩ | ⟨-, h⟩ := setF32In_cases v s <;> rw [h]
@[simp] theorem setF32In_f32Out (v : Option SingleWord) : (s.setF32In v).f32Out = s.f32Out := by
  obtain ⟨-, h⟩ | ⟨-, h⟩ := setF32In_cases v s <;> rw [h]

@[simp] theorem setF16In_f16In (v : Option HalfWord) : (s.setF16In v).f16In = v := by
  obtain ⟨hv, h⟩ | ⟨-, h⟩ := setF16In_cases v s <;> rw [h]
  exact hv
@[simp] theorem setF16In_build (v : Option HalfWord) : (s.setF16In v).build = s.build := by
  obtain ⟨-, h⟩ | ⟨-, h⟩ := setF16In_cases v s <;> rw [h]
@[simp] theorem setF16In_powered (v : Option HalfWord) : (s.setF16In v).powered = s.powered := by
  obtain ⟨-, h⟩ | ⟨-, h⟩ := setF16In_cases v s <;> rw [h]
@[simp] theorem setF16In_request (v : Option HalfWord) : (s.setF16In v).request = s.request := by
  obtain ⟨-, h⟩ | ⟨-, h⟩ := setF16In_cases v s <;> rw [h]
@[simp] theorem setF16In_f16Out (v : Option HalfWord) : (s.setF16In v).f16Out = s.f16Out := by
  obtain ⟨-, h⟩ | ⟨-, h⟩ := setF16In_cases v s <;> rw [h]

/-- A new level, the same or another, never specifies an output that was unspecified. -/
theorem setF32In_f16Out_of_none (v : Option SingleWord) (hout : s.f16Out = none) :
    (s.setF32In v).f16Out = none := by
  obtain ⟨-, h⟩ | ⟨-, h⟩ := setF32In_cases v s <;> rw [h]
  exact hout

theorem setF16In_f32Out_of_none (v : Option HalfWord) (hout : s.f32Out = none) :
    (s.setF16In v).f32Out = none := by
  obtain ⟨-, h⟩ | ⟨-, h⟩ := setF16In_cases v s <;> rw [h]
  exact hout

@[simp] theorem applyEvent_driveF32In (f : SingleWord) :
    s.applyEvent (.driveF32In f) = s.setF32In (some f) := rfl
@[simp] theorem applyEvent_releaseF32In : s.applyEvent .releaseF32In = s.setF32In none := rfl
@[simp] theorem applyEvent_driveF16In (h : HalfWord) :
    s.applyEvent (.driveF16In h) = s.setF16In (some h) := rfl
@[simp] theorem applyEvent_releaseF16In : s.applyEvent .releaseF16In = s.setF16In none := rfl

@[simp] theorem applyEvent_build (e : PortEvent) : (s.applyEvent e).build = s.build := by
  cases e <;> simp

end

/-! ### Histories -/

theorem runActions_event (e : PortEvent) (rest : List Action) (s : State) :
    runActions s (.event e :: rest) = runActions (s.applyEvent e) rest := rfl

theorem runActions_step {s t : State} (rest : List Action) (hstep : step s = .next t) :
    runActions s (.step :: rest) = runActions t rest := by rw [runActions, hstep]

/-- A property that every step and every action of a list keeps holds where the list ends, and the list completes. -/
theorem runActions_keeps {P : State → Prop} (hstep : ∀ s t, P s → step s = .next t → P t) (as : List Action) :
    (∀ s e, Action.event e ∈ as → P s → P (s.applyEvent e)) →
    ∀ s, P s → ∃ t, runActions s as = .next t ∧ P t := by
  induction as with
  | nil => exact fun _ s hs => ⟨s, rfl, hs⟩
  | cons a rest ih =>
    intro hevent s hs
    have hrest := ih fun s e he => hevent s e (.tail _ he)
    cases a with
    | event e =>
      rw [runActions_event]
      exact hrest _ (hevent s e (.head _) hs)
    | step =>
      obtain ⟨t, ht⟩ := step_completes s
      rw [runActions_step rest ht]
      exact hrest t (hstep s t hs ht)

/-- Settles O10: coherence and the build are kept by every step and every action. -/
theorem everyHistoryStaysCoherentAndKeepsTheBuild :
    Obligations.EveryHistoryStaysCoherentAndKeepsTheBuild := by
  intro s as hs
  refine runActions_keeps (P := fun t => t.Coherent ∧ t.build = s.build) ?_ as ?_ s ⟨hs, rfl⟩
  · rintro t u ⟨-, hbuild⟩ hstep
    exact ⟨coherent_of_settled (everyStepLeavesTheOutputsSettled t u hstep),
      (step_frame hstep).1.trans hbuild⟩
  · rintro t e - ⟨hcoherent, hbuild⟩
    exact ⟨coherent_applyEvent e hcoherent, (applyEvent_build t e).trans hbuild⟩

/-! ### Without power -/

/-- The block has no power and shows nothing (R82). -/
def State.Dark (s : State) : Prop := s.powered = false ∧ s.f16Out = none ∧ s.f32Out = none

theorem dark_step {s t : State} (hs : s.Dark) (hstep : step s = .next t) : t.Dark := by
  have hp : t.powered = false := (step_frame hstep).2.trans hs.1
  exact ⟨hp, (everyStepLeavesTheOutputsSettled s t hstep).2 hp⟩

theorem dark_applyEvent {e : PortEvent} (he : e ≠ .powerUp) {s : State} (hs : s.Dark) :
    (s.applyEvent e).Dark := by
  obtain ⟨hp, h16, h32⟩ := hs
  cases e with
  | driveF32In f =>
    exact ⟨(setF32In_powered s _).trans hp, setF32In_f16Out_of_none s _ h16, (setF32In_f32Out s _).trans h32⟩
  | releaseF32In =>
    exact ⟨(setF32In_powered s _).trans hp, setF32In_f16Out_of_none s _ h16, (setF32In_f32Out s _).trans h32⟩
  | driveF16In h =>
    exact ⟨(setF16In_powered s _).trans hp, (setF16In_f16Out s _).trans h16, setF16In_f32Out_of_none s _ h32⟩
  | releaseF16In =>
    exact ⟨(setF16In_powered s _).trans hp, (setF16In_f16Out s _).trans h16, setF16In_f32Out_of_none s _ h32⟩
  | present q => exact ⟨hp, h16, h32⟩
  | powerDown => exact ⟨rfl, rfl, rfl⟩
  | powerUp => exact absurd rfl he

/-- Settles O59: `Dark` starts with `powerDown` and is kept by all but `powerUp`, after which a step settles. -/
theorem unpoweredOutputsAreUnspecified : Obligations.UnpoweredOutputsAreUnspecified := by
  refine ⟨fun _ => ⟨rfl, rfl, rfl⟩, ?_, fun _ => ⟨rfl, rfl, rfl⟩, ?_⟩
  · intro s as hp h16 h32 hnever
    refine runActions_keeps (P := State.Dark) (fun _ _ => dark_step) as ?_ s ⟨hp, h16, h32⟩
    intro t e he
    exact dark_applyEvent (fun hup => hnever (hup ▸ he))
  · intro s hq
    exact ⟨_, step_of_no_request hq, rfl, rfl⟩

/-! ### One step -/

/-- A table word that decodes is a request word, and decodes as that word does. -/
theorem requestOfNat_of_decodeTableWord {nbits w : Nat} {i : Instr} (h : decodeTableWord nbits w = some i) :
    ∃ q, requestOfNat w = some q ∧ decode q = i := by
  unfold decodeTableWord decodeNat at h
  cases hw : requestOfNat w with
  | none => rw [hw] at h; cases h
  | some q =>
    rw [hw] at h
    exact ⟨q, rfl, Option.some.inj h⟩

/-- Settles O6: settling reads nothing of the request, which the step decodes and runs. -/
theorem stepRunsTheDecodedRequest : Obligations.StepRunsTheDecodedRequest := by
  refine fun s q => ⟨fun hq => step_of_request hq, fun nbits w i hi => ?_⟩
  obtain ⟨q', hq', hdecode⟩ := requestOfNat_of_decodeTableWord hi
  have hrequest : (s.withFetchWord nbits w).request = some q' := hq'
  rw [step_of_request hrequest, hdecode]
  rfl

/-- Settles O7: the step is `settle`, read field by field. -/
theorem idleStepSettlesTheOutputs : Obligations.IdleStepSettlesTheOutputs := by
  intro s hq
  refine ⟨s.settle, step_of_no_request hq, rfl, rfl, rfl, rfl, rfl, rfl, rfl, fun hp => ?_, fun hp => ?_⟩
  · refine ⟨fun f hf => ?_, fun h hh => ?_, fun hf => ?_, fun hh => ?_⟩
    · rw [settle_f16Out, poweredLevel_of_powered hp, hf, Option.map_some]
    · rw [settle_f32Out, poweredLevel_of_powered hp, hh, Option.map_some]
    · rw [settle_f16Out, poweredLevel_of_powered hp, hf, Option.map_none]
    · rw [settle_f32Out, poweredLevel_of_powered hp, hh, Option.map_none]
  · exact (settled_settle s).2 hp

/-- Settles O11: at reset both outputs are unspecified, and every other field is a literal. -/
theorem resetIsCoherentWithTheDefaultBuild : Obligations.ResetIsCoherentWithTheDefaultBuild :=
  ⟨coherent_of_unspecified rfl rfl, rfl, rfl, rfl, rfl, rfl, rfl, rfl, rfl, rfl⟩

/-- Settles O55: a changed level takes the second case of each setter. -/
theorem changedInputLeavesItsOutputUnspecified : Obligations.ChangedInputLeavesItsOutputUnspecified := by
  refine fun s n => ⟨fun v hv => ?_, fun v hv => ?_⟩
  · have hset : s.setF32In v = { s with f32In := v, f16Out := none } := if_neg hv
    rw [hset]
    exact ⟨rfl, rfl, rfl⟩
  · have hset : s.setF16In v = { s with f16In := v, f32Out := none } := if_neg hv
    rw [hset]
    exact ⟨rfl, rfl, rfl⟩

end Sys2Proof.Machine
end

section
/-! The two operations as a whole (40_narrow.md R56, 41_widen.md R67): the next state of each, what it leaves
unchanged, and the two together; then the request view against the port view (30_encoding.md R40, R44). -/

namespace Sys2Proof.Machine

/-! ### Next states and frames -/

/-- R40: `y = zext_32(h)` is `h` below 16 zero bits. -/
theorem narrowResponse_eq_append (h : HalfWord) : h.zeroExtend 32 = 0#16 ++ h :=
  BitVec.setWidth_eq_append (by omega)

/-- Settles O13: with and without power. -/
theorem toFloat16NextState : Obligations.ToFloat16NextState := by
  refine fun a s => ⟨fun hp => ?_, fun hp => ?_⟩
  · rw [exec_toFloat16_powered a hp, narrowResponse_eq_append, ← hp]
  · rw [exec_toFloat16_unpowered a hp, narrowResponse_eq_append, ← hp]

/-- Settles O14: with and without power. -/
theorem toFloat32NextState : Obligations.ToFloat32NextState := by
  refine fun i h s => ⟨fun hp => ?_, fun hp => ?_⟩
  · rw [exec_toFloat32_powered i h hp, ← hp]
  · rw [exec_toFloat32_unpowered i h hp, ← hp]

/-- Settles O15: of the state only the counter depends on the power. -/
theorem toFloat16ChangesOnlyItsOwnPorts : Obligations.ToFloat16ChangesOnlyItsOwnPorts := by
  intro a s t hexec
  cases hp : s.powered with
  | true =>
    cases (exec_toFloat16_powered a hp).symm.trans hexec
    exact ⟨rfl, rfl, rfl, rfl, hp, fun _ => rfl⟩
  | false =>
    cases (exec_toFloat16_unpowered a hp).symm.trans hexec
    exact ⟨rfl, rfl, rfl, rfl, hp, fun h => absurd h (by decide)⟩

/-- Settles O16: of the state only the counter depends on the power. -/
theorem toFloat32ChangesOnlyItsOwnPorts : Obligations.ToFloat32ChangesOnlyItsOwnPorts := by
  intro i b s t hexec
  cases hp : s.powered with
  | true =>
    cases (exec_toFloat32_powered i b hp).symm.trans hexec
    exact ⟨rfl, rfl, rfl, rfl, hp, fun _ => rfl⟩
  | false =>
    cases (exec_toFloat32_unpowered i b hp).symm.trans hexec
    exact ⟨rfl, rfl, rfl, rfl, hp, fun h => absurd h (by decide)⟩

/-- Settles O52: neither operation reads or writes a port of the other. -/
theorem datapathsCommute : Obligations.DatapathsCommute := by
  intro a i h s
  refine ⟨_, _, _, _, exec_toFloat16 a s, exec_toFloat32 i h _, exec_toFloat32 i h s, exec_toFloat16 a _,
    ?_, ?_, ?_, ?_⟩ <;> cases hp : s.powered <;> simp [hp]

/-- With power, running an operation again on the state it left changes nothing. -/
theorem exec_again {i : Instr} {s t : State} (hp : s.powered = true) (hexec : exec i s = .next t) :
    exec i t = .next t := by
  cases i with
  | toFloat16 a =>
    cases (exec_toFloat16_powered a hp).symm.trans hexec
    exact exec_toFloat16_powered a hp
  | toFloat32 ignored h =>
    cases (exec_toFloat32_powered ignored h hp).symm.trans hexec
    exact exec_toFloat32_powered ignored h hp

/-- With power, the response depends on the operation and the build alone. -/
theorem exec_response_eq {i : Instr} {s s' t t' : State} (hp : s.powered = true) (hp' : s'.powered = true)
    (hbuild : s'.build = s.build) (hexec : exec i s = .next t) (hexec' : exec i s' = .next t') :
    t'.response = t.response := by
  cases i with
  | toFloat16 a =>
    cases (exec_toFloat16_powered a hp).symm.trans hexec
    cases (exec_toFloat16_powered a hp').symm.trans hexec'
    rw [hbuild]
  | toFloat32 ignored h =>
    cases (exec_toFloat32_powered ignored h hp).symm.trans hexec
    cases (exec_toFloat32_powered ignored h hp').symm.trans hexec'
    rfl

/-- Settles O53, from `exec_again` and `exec_response_eq`. -/
theorem evaluationIsIdempotentAndDeterministic : Obligations.EvaluationIsIdempotentAndDeterministic :=
  fun _ _ _ _ _ hp hexec =>
    ⟨exec_again hp hexec, fun hp' hbuild hexec' => exec_response_eq hp hp' hbuild hexec hexec'⟩

/-! ### The request view and the port view -/

/-- Settles O50: the decoded operand is the range of the request that the statement names. -/
theorem responseIsTheResultOfTheOperand : Obligations.ResponseIsTheResultOfTheOperand := by
  intro s q hp hq
  have hsettled : s.settle.powered = true := hp
  refine ⟨fun hop => ?_, fun hop => ?_⟩
  · rw [step_of_request hq, decode_of_not_op hop]
    refine ⟨_, _, exec_toFloat16_powered _ hsettled, rfl, ?_, ?_, rfl⟩
    · rw [narrowResponse_eq_append]
      exact BitVec.extractLsb'_append_eq_right
    · rw [narrowResponse_eq_append]
      exact BitVec.extractLsb'_append_eq_left
  · rw [step_of_request hq, decode_of_op hop]
    exact ⟨_, exec_toFloat32_powered _ _ hsettled, rfl, rfl⟩

/-- A driven `f32_in` shows `NARROW` of its level on `f16_out` after a step without a request. -/
theorem step_driveF32In (f : SingleWord) {s : State} (hp : s.powered = true) (hq : s.request = none) :
    ∃ t, step (s.applyEvent (.driveF32In f)) = .next t ∧ t.f16Out = some (narrow s.build.tieMode f) := by
  have hrequest : (s.applyEvent (.driveF32In f)).request = none := by simp [hq]
  exact ⟨_, step_of_no_request hrequest, by simp [hp]⟩

/-- A driven `f16_in` shows `WIDEN` of its level on `f32_out` after a step without a request. -/
theorem step_driveF16In (h : HalfWord) {s : State} (hp : s.powered = true) (hq : s.request = none) :
    ∃ t, step (s.applyEvent (.driveF16In h)) = .next t ∧ t.f32Out = some (widen h) := by
  have hrequest : (s.applyEvent (.driveF16In h)).request = none := by simp [hq]
  exact ⟨_, step_of_no_request hrequest, by simp [hp]⟩

theorem responseTo_encode_toFloat16 (mode : TieMode) (f : SingleWord) :
    responseTo mode (encode (.toFloat16 f)) = 0#16 ++ narrow mode f := by
  rw [responseTo, decode_encode_toFloat16]
  exact narrowResponse_eq_append _

theorem responseTo_encode_toFloat32 (mode : TieMode) (ignored h : BitVec 16) :
    responseTo mode (encode (.toFloat32 ignored h)) = widen h := by
  rw [responseTo, decode_encode_toFloat32]
  rfl

/-- Settles O54: both views answer `NARROW`, and both answer `WIDEN`. -/
theorem portViewEqualsRequestView : Obligations.PortViewEqualsRequestView := by
  intro s hp hq
  refine ⟨fun f => ?_, fun i h => ?_⟩
  · obtain ⟨t, hport, hout⟩ := step_driveF32In f hp hq
    obtain ⟨u, hasked, hresponse, -, -⟩ := step_present_of_powered (encode (.toFloat16 f)) hp
    rw [responseTo_encode_toFloat16] at hresponse
    exact ⟨t, u, _, hport, hout, hasked, hresponse⟩
  · obtain ⟨t, hport, hout⟩ := step_driveF16In h hp hq
    obtain ⟨u, hasked, hresponse, -, -⟩ := step_present_of_powered (encode (.toFloat32 i h)) hp
    rw [responseTo_encode_toFloat32] at hresponse
    exact ⟨t, u, _, hport, hout, hasked, hresponse⟩

end Sys2Proof.Machine
end

section
/-! Magnitudes as whole numbers (30_encoding.md R31, R34): a finite pattern of either format denotes a whole number
of units, 2^-24 for binary16 and 2^-149 for binary32, and that number grows strictly with the pattern. The
categories and the magnitude bounds of the formats follow. -/

namespace Sys2Proof.Machine

/-! ### Patterns and their units -/

/-- What the non-negative pattern `n` of a format with `k` mantissa bits denotes, in units of its smallest
subnormal. Read past the largest finite pattern, it goes on as if the exponent range did. -/
def patternUnits (k n : Nat) : Nat :=
  if n / 2 ^ k = 0 then n % 2 ^ k else (2 ^ k + n % 2 ^ k) * 2 ^ (n / 2 ^ k - 1)

theorem patternUnits_of_lt {k n : Nat} (h : n < 2 ^ k) : patternUnits k n = n := by
  rw [patternUnits, if_pos (Nat.div_eq_of_lt h), Nat.mod_eq_of_lt h]

/-- The units of a pattern with a nonzero exponent field. -/
theorem patternUnits_of_exponent {k m : Nat} (e : Nat) (hm : m < 2 ^ k) :
    patternUnits k ((e + 1) * 2 ^ k + m) = (2 ^ k + m) * 2 ^ e := by
  have hexp : ((e + 1) * 2 ^ k + m) / 2 ^ k = e + 1 := by
    rw [add_comm, Nat.add_mul_div_right _ _ (by positivity), Nat.div_eq_of_lt hm, zero_add]
  have hman : ((e + 1) * 2 ^ k + m) % 2 ^ k = m := by
    rw [Nat.mul_add_mod', Nat.mod_eq_of_lt hm]
  rw [patternUnits, hexp, hman, if_neg (by omega), Nat.add_sub_cancel]

theorem patternUnits_of_le {k n : Nat} (h : n ≤ 2 ^ k) : patternUnits k n = n := by
  rcases Nat.lt_or_eq_of_le h with hlt | heq
  · exact patternUnits_of_lt hlt
  · have hpattern : n = (0 + 1) * 2 ^ k + 0 := by omega
    rw [hpattern, patternUnits_of_exponent 0 (by positivity)]
    ring

/-- Every pattern is either below the implicit leading 1 or has a nonzero exponent field. -/
theorem pattern_cases (k n : Nat) : n < 2 ^ k ∨ ∃ e m, m < 2 ^ k ∧ n = (e + 1) * 2 ^ k + m := by
  by_cases h : n < 2 ^ k
  · exact .inl h
  · have hone : 1 ≤ n / 2 ^ k := (Nat.one_le_div_iff (by positivity)).mpr (by omega)
    refine .inr ⟨n / 2 ^ k - 1, n % 2 ^ k, Nat.mod_lt _ (by positivity), ?_⟩
    rw [Nat.sub_add_cancel hone, Nat.div_add_mod']

/-- The next pattern denotes one unit of the last place more, into the next exponent field too. -/
theorem patternUnits_succ_of_exponent {k m : Nat} (e : Nat) (hm : m < 2 ^ k) :
    patternUnits k ((e + 1) * 2 ^ k + m + 1) = (2 ^ k + m + 1) * 2 ^ e := by
  rcases Nat.lt_or_eq_of_le (Nat.succ_le_of_lt hm) with h | h
  · rw [add_assoc, patternUnits_of_exponent e h, Nat.succ_eq_add_one, ← add_assoc]
  · have hnext : (e + 1) * 2 ^ k + m + 1 = (e + 1 + 1) * 2 ^ k + 0 := by
      rw [add_assoc, show m + 1 = 2 ^ k from h]; ring
    rw [hnext, patternUnits_of_exponent (e + 1) (by positivity), add_assoc, show m + 1 = 2 ^ k from h]
    ring

theorem patternUnits_lt_succ (k n : Nat) : patternUnits k n < patternUnits k (n + 1) := by
  rcases pattern_cases k n with h | ⟨e, m, hm, rfl⟩
  · rw [patternUnits_of_lt h, patternUnits_of_le h]
    exact Nat.lt_succ_self n
  · rw [patternUnits_of_exponent e hm, patternUnits_succ_of_exponent e hm]
    exact Nat.mul_lt_mul_of_pos_right (Nat.lt_succ_self _) (by positivity)

theorem patternUnits_strictMono (k : Nat) : StrictMono (patternUnits k) :=
  strictMono_nat_of_lt_succ (patternUnits_lt_succ k)

@[simp] theorem patternUnits_lt_iff {k a b : Nat} : patternUnits k a < patternUnits k b ↔ a < b :=
  (patternUnits_strictMono k).lt_iff_lt

@[simp] theorem patternUnits_le_iff {k a b : Nat} : patternUnits k a ≤ patternUnits k b ↔ a ≤ b :=
  (patternUnits_strictMono k).le_iff_le

@[simp] theorem patternUnits_inj {k a b : Nat} : patternUnits k a = patternUnits k b ↔ a = b :=
  (patternUnits_strictMono k).injective.eq_iff

/-! ### Magnitude patterns of words -/

/-- The 15-bit magnitude of a binary16 pattern. -/
def magnitude16 (h : HalfWord) : Nat := h.toNat % 2 ^ 15

theorem magnitude16_eq (h : HalfWord) : magnitude16 h = exp16 h * 2 ^ 10 + man16 h := by
  have hword : h.toNat = sign16 h * 2 ^ 15 + exp16 h * 2 ^ 10 + man16 h := toNat_of_fields16 h
  have he : exp16 h < 32 := exp16_lt h
  have hm : man16 h < 1024 := man16_lt h
  unfold magnitude16
  omega

theorem magnitude32_eq (f : SingleWord) : magnitude32 f = exp32 f * 2 ^ 23 + man32 f := by
  have hword : f.toNat = sign32 f * 2 ^ 31 + exp32 f * 2 ^ 23 + man32 f := toNat_of_fields32 f
  have he : exp32 f < 256 := exp32_lt f
  have hm : man32 f < 8388608 := man32_lt f
  rw [magnitude32, show (0x7FFFFFFF : Nat) = 2 ^ 31 - 1 from rfl, Nat.and_two_pow_sub_one_eq_mod]
  omega

/-! ### Magnitudes in units -/

theorem finiteMagnitude16_eq_units (h : HalfWord) :
    finiteMagnitude16 (exp16 h) (man16 h) = (patternUnits 10 (magnitude16 h) : Rat) / 2 ^ 24 := by
  have hm : man16 h < 2 ^ 10 := man16_lt h
  rw [magnitude16_eq, finiteMagnitude16]
  cases exp16 h with
  | zero =>
    rw [zero_mul, zero_add, patternUnits_of_lt hm, if_pos rfl]
    norm_num
    ring
  | succ e =>
    have hscale : (2 : Rat) ^ (((e + 1 : Nat) : Int) - 15) = 2 ^ e / 2 ^ 14 := by
      rw [← zpow_natCast, ← zpow_natCast, ← zpow_sub₀ two_ne_zero]
      congr 1
      push_cast
      ring
    rw [patternUnits_of_exponent e hm, if_neg (by omega), hscale]
    push_cast
    ring

theorem finiteMagnitude32_eq_units (f : SingleWord) :
    finiteMagnitude32 (exp32 f) (man32 f) = (patternUnits 23 (magnitude32 f) : Rat) / 2 ^ 149 := by
  have hm : man32 f < 2 ^ 23 := man32_lt f
  rw [magnitude32_eq, finiteMagnitude32]
  cases exp32 f with
  | zero =>
    rw [zero_mul, zero_add, patternUnits_of_lt hm, if_pos rfl]
    norm_num
    ring
  | succ e =>
    have hscale : (2 : Rat) ^ (((e + 1 : Nat) : Int) - 127) = 2 ^ e / 2 ^ 126 := by
      rw [← zpow_natCast, ← zpow_natCast, ← zpow_sub₀ two_ne_zero]
      congr 1
      push_cast
      ring
    rw [patternUnits_of_exponent e hm, if_neg (by omega), hscale]
    push_cast
    ring

theorem abs_eq_units16 {h : HalfWord} {x : Rat} (hx : val16 h = some (.finite x)) :
    |x| = (patternUnits 10 (magnitude16 h) : Rat) / 2 ^ 24 := by
  rw [(abs_of_val16 hx).2, finiteMagnitude16_eq_units]

theorem abs_eq_units32 {f : SingleWord} {x : Rat} (hx : val32 f = some (.finite x)) :
    |x| = (patternUnits 23 (magnitude32 f) : Rat) / 2 ^ 149 := by
  rw [(abs_of_val32 hx).2, finiteMagnitude32_eq_units]

/-- Numbers of units compare as whole numbers do. -/
theorem units_le_iff {k a b : Nat} : (a : Rat) / 2 ^ k ≤ b / 2 ^ k ↔ a ≤ b := by
  rw [div_le_div_iff_of_pos_right (by positivity), Nat.cast_le]

theorem units_lt_iff {k a b : Nat} : (a : Rat) / 2 ^ k < b / 2 ^ k ↔ a < b := by
  rw [div_lt_div_iff_of_pos_right (by positivity), Nat.cast_lt]

/-- A magnitude bound that a binary32 pattern denotes is a bound on the pattern. -/
theorem le_abs_iff32 {f : SingleWord} {x c : Rat} {n : Nat} (hx : val32 f = some (.finite x))
    (hc : c = (patternUnits 23 n : Rat) / 2 ^ 149) : c ≤ |x| ↔ n ≤ magnitude32 f := by
  rw [hc, abs_eq_units32 hx, units_le_iff, patternUnits_le_iff]

theorem abs_lt_iff32 {f : SingleWord} {x c : Rat} {n : Nat} (hx : val32 f = some (.finite x))
    (hc : c = (patternUnits 23 n : Rat) / 2 ^ 149) : |x| < c ↔ magnitude32 f < n := by
  rw [hc, abs_eq_units32 hx, units_lt_iff, patternUnits_lt_iff]

theorem abs_le_iff32 {f : SingleWord} {x c : Rat} {n : Nat} (hx : val32 f = some (.finite x))
    (hc : c = (patternUnits 23 n : Rat) / 2 ^ 149) : |x| ≤ c ↔ magnitude32 f ≤ n := by
  rw [hc, abs_eq_units32 hx, units_le_iff, patternUnits_le_iff]

theorem le_abs_iff16 {h : HalfWord} {x c : Rat} {n : Nat} (hx : val16 h = some (.finite x))
    (hc : c = (patternUnits 10 n : Rat) / 2 ^ 24) : c ≤ |x| ↔ n ≤ magnitude16 h := by
  rw [hc, abs_eq_units16 hx, units_le_iff, patternUnits_le_iff]

theorem abs_le_iff16 {h : HalfWord} {x c : Rat} {n : Nat} (hx : val16 h = some (.finite x))
    (hc : c = (patternUnits 10 n : Rat) / 2 ^ 24) : |x| ≤ c ↔ magnitude16 h ≤ n := by
  rw [hc, abs_eq_units16 hx, units_le_iff, patternUnits_le_iff]

/-! ### Categories -/

section
variable {top e m : Nat}

theorem categoryOf_eq_infinity_iff : categoryOf top e m = .infinity ↔ e = top ∧ m = 0 := by
  unfold categoryOf; split_ifs <;> simp <;> omega

theorem categoryOf_eq_nan_iff : categoryOf top e m = .nan ↔ e = top ∧ m ≠ 0 := by
  unfold categoryOf; split_ifs <;> simp <;> omega

theorem categoryOf_eq_zero_iff : categoryOf top e m = .zero ↔ e ≠ top ∧ e = 0 ∧ m = 0 := by
  unfold categoryOf; split_ifs <;> simp <;> omega

theorem categoryOf_eq_subnormal_iff : categoryOf top e m = .subnormal ↔ e ≠ top ∧ e = 0 ∧ m ≠ 0 := by
  unfold categoryOf; split_ifs <;> simp <;> omega

theorem categoryOf_eq_normalized_iff : categoryOf top e m = .normalized ↔ e ≠ top ∧ e ≠ 0 := by
  unfold categoryOf; split_ifs <;> simp <;> omega

end

theorem category16_eq_infinity_iff {h : HalfWord} : category16 h = .infinity ↔ magnitude16 h = 0x7C00 := by
  have he : exp16 h < 32 := exp16_lt h
  have hm : man16 h < 1024 := man16_lt h
  rw [category16, categoryOf_eq_infinity_iff, magnitude16_eq]
  omega

theorem category16_eq_nan_iff {h : HalfWord} : category16 h = .nan ↔ 0x7C00 < magnitude16 h := by
  have he : exp16 h < 32 := exp16_lt h
  have hm : man16 h < 1024 := man16_lt h
  rw [category16, categoryOf_eq_nan_iff, magnitude16_eq]
  omega

theorem category16_eq_zero_iff {h : HalfWord} : category16 h = .zero ↔ magnitude16 h = 0 := by
  have hm : man16 h < 1024 := man16_lt h
  rw [category16, categoryOf_eq_zero_iff, magnitude16_eq]
  omega

theorem category16_eq_normalized_iff {h : HalfWord} (hfinite : exp16 h ≠ 31) :
    category16 h = .normalized ↔ 0x400 ≤ magnitude16 h := by
  have hm : man16 h < 1024 := man16_lt h
  rw [category16, categoryOf_eq_normalized_iff, magnitude16_eq]
  omega

theorem category32_eq_nan_iff {f : SingleWord} : category32 f = .nan ↔ 0x7F800000 < magnitude32 f := by
  have he : exp32 f < 256 := exp32_lt f
  have hm : man32 f < 8388608 := man32_lt f
  rw [category32, categoryOf_eq_nan_iff, magnitude32_eq]
  omega

theorem category32_eq_zero_iff {f : SingleWord} : category32 f = .zero ↔ magnitude32 f = 0 := by
  have hm : man32 f < 8388608 := man32_lt f
  rw [category32, categoryOf_eq_zero_iff, magnitude32_eq]
  omega

theorem category32_eq_normalized_iff {f : SingleWord} (hfinite : exp32 f ≠ 255) :
    category32 f = .normalized ↔ 0x800000 ≤ magnitude32 f := by
  have hm : man32 f < 8388608 := man32_lt f
  rw [category32, categoryOf_eq_normalized_iff, magnitude32_eq]
  omega

theorem exp32_lt_of_finite {f : SingleWord} {x : Rat} (hx : val32 f = some (.finite x)) : exp32 f < 255 := by
  have he : exp32 f < 256 := exp32_lt f
  have hfinite : exp32 f ≠ 255 := (abs_of_val32 hx).1
  omega

/-- A finite value is 0 exactly for the zero pattern of either sign. -/
theorem eq_zero_iff16 {h : HalfWord} {x : Rat} (hx : val16 h = some (.finite x)) :
    x = 0 ↔ magnitude16 h = 0 := by
  rw [← abs_nonpos_iff, abs_le_iff16 hx (n := 0) (by norm_num [patternUnits]), Nat.le_zero]

theorem eq_zero_iff32 {f : SingleWord} {x : Rat} (hx : val32 f = some (.finite x)) :
    x = 0 ↔ magnitude32 f = 0 := by
  rw [← abs_nonpos_iff, abs_le_iff32 hx (n := 0) (by norm_num [patternUnits]), Nat.le_zero]

theorem category16_eq_nan_iff_val16 (h : HalfWord) : category16 h = .nan ↔ val16 h = none := by
  unfold val16; cases category16 h <;> simp

theorem category32_eq_nan_iff_val32 (f : SingleWord) : category32 f = .nan ↔ val32 f = none := by
  unfold val32; cases category32 f <;> simp

theorem category16_eq_infinity_iff_val16 (h : HalfWord) :
    category16 h = .infinity ↔ val16 h = some (.infinite (decide (sign16 h = 1))) := by
  unfold val16; cases category16 h <;> simp [beq_eq_decide]

theorem category32_eq_infinity_iff_val32 (f : SingleWord) :
    category32 f = .infinity ↔ val32 f = some (.infinite (decide (sign32 f = 1))) := by
  unfold val32; cases category32 f <;> simp [beq_eq_decide]

/-- Settles O19: 2^-14 and 2^-126 are the values of the patterns with exponent field 1 and mantissa 0. -/
theorem categoriesAgreeWithValues : Obligations.CategoriesAgreeWithValues := by
  refine ⟨fun h => ⟨category16_eq_nan_iff_val16 h, category16_eq_infinity_iff_val16 h, fun x hx => ⟨?_, ?_⟩⟩,
    fun f => ⟨category32_eq_nan_iff_val32 f, category32_eq_infinity_iff_val32 f, fun x hx => ⟨?_, ?_⟩⟩⟩
  · rw [category16_eq_zero_iff, eq_zero_iff16 hx]
  · rw [category16_eq_normalized_iff (abs_of_val16 hx).1,
      le_abs_iff16 hx (n := 0x400) (by norm_num [patternUnits])]
  · rw [category32_eq_zero_iff, eq_zero_iff32 hx]
  · rw [category32_eq_normalized_iff (abs_of_val32 hx).1,
      le_abs_iff32 hx (n := 0x800000) (by norm_num [patternUnits])]

/-! ### Magnitude bounds -/

theorem magnitude16_lt_of_finite {h : HalfWord} {x : Rat} (hx : val16 h = some (.finite x)) :
    magnitude16 h < 0x7C00 := by
  have hfinite : exp16 h ≠ 31 := (abs_of_val16 hx).1
  have he : exp16 h < 32 := exp16_lt h
  have hm : man16 h < 1024 := man16_lt h
  rw [magnitude16_eq]
  omega

/-- A finite binary16 with sign bit 0 denotes its units. -/
theorem val16_of_units {h : HalfWord} (hsign : sign16 h = 0) (he : exp16 h ≠ 31) :
    val16 h = some (.finite ((patternUnits 10 (magnitude16 h) : Rat) / 2 ^ 24)) := by
  rw [val16_of_finite he, hsign, signFactor, if_pos rfl, one_mul, finiteMagnitude16_eq_units]

/-- Settles O20: magnitudes grow with the pattern, from `0x0001` to `0x7BFF`. -/
theorem halfFiniteMagnitudeBounds : Obligations.HalfFiniteMagnitudeBounds := by
  refine ⟨fun h x hx => ⟨?_, fun hne => ?_⟩, ?_, ?_, ?_⟩
  · have hlt : magnitude16 h < 0x7C00 := magnitude16_lt_of_finite hx
    rw [abs_le_iff16 hx (n := 0x7BFF) (by norm_num [patternUnits])]
    omega
  · rw [le_abs_iff16 hx (n := 1) (by norm_num [patternUnits])]
    exact Nat.one_le_iff_ne_zero.mpr (mt (eq_zero_iff16 hx).mpr hne)
  · rw [val16_of_units (by decide) (by decide), show magnitude16 0x7BFF = 0x7BFF from by decide]
    norm_num [patternUnits]
  · rw [val16_of_units (by decide) (by decide), show magnitude16 0x0001 = 1 from by decide]
    norm_num [patternUnits]
  · rw [val16_of_units (by decide) (by decide), show magnitude16 0x0400 = 0x400 from by decide]
    norm_num [patternUnits]

end Sys2Proof.Machine
end

section
/-! The cases of narrowing as ranges (40_narrow.md R47, R50, R52, R59): each case is a range of the exponent field,
so a range of magnitudes. -/

namespace Sys2Proof.Machine

/-! ### Ranges of the exponent field -/

section
variable {e32 : Nat}

theorem narrowCase_of_underflow_range (hlow : 1 ≤ e32) (hhigh : e32 ≤ 101) :
    narrowCase e32 = .underflowToZero :=
  narrowCase_eq_underflowToZero (by omega) (by unfold rebias; omega)

theorem narrowCase_of_subnormal_range (hlow : 102 ≤ e32) (hhigh : e32 ≤ 112) :
    narrowCase e32 = .subnormalOut :=
  narrowCase_eq_subnormalOut (by omega) (by unfold rebias; omega) (by unfold rebias; omega)

theorem narrowCase_of_normal_range (hlow : 113 ≤ e32) (hhigh : e32 ≤ 142) : narrowCase e32 = .normalOut :=
  narrowCase_eq_normalOut (by unfold rebias; omega) (by unfold rebias; omega)

theorem narrowCase_of_overflow_range (hlow : 143 ≤ e32) (hhigh : e32 ≤ 254) : narrowCase e32 = .overflow :=
  narrowCase_eq_overflow (by omega) (by unfold rebias; omega)

/-- The six cases with their ranges. -/
theorem narrowCase_ranges (hle : e32 ≤ 255) :
    (e32 = 0 ∧ narrowCase e32 = .zeroOrSubnormalIn) ∨
    ((1 ≤ e32 ∧ e32 ≤ 101) ∧ narrowCase e32 = .underflowToZero) ∨
    ((102 ≤ e32 ∧ e32 ≤ 112) ∧ narrowCase e32 = .subnormalOut) ∨
    ((113 ≤ e32 ∧ e32 ≤ 142) ∧ narrowCase e32 = .normalOut) ∨
    ((143 ≤ e32 ∧ e32 ≤ 254) ∧ narrowCase e32 = .overflow) ∨
    (e32 = 255 ∧ narrowCase e32 = .infOrNanIn) := by
  have hrange : e32 = 0 ∨ (1 ≤ e32 ∧ e32 ≤ 101) ∨ (102 ≤ e32 ∧ e32 ≤ 112) ∨ (113 ≤ e32 ∧ e32 ≤ 142) ∨
      (143 ≤ e32 ∧ e32 ≤ 254) ∨ e32 = 255 := by omega
  rcases hrange with h | h | h | h | h | h
  · exact .inl ⟨h, h ▸ rfl⟩
  · exact .inr (.inl ⟨h, narrowCase_of_underflow_range h.1 h.2⟩)
  · exact .inr (.inr (.inl ⟨h, narrowCase_of_subnormal_range h.1 h.2⟩))
  · exact .inr (.inr (.inr (.inl ⟨h, narrowCase_of_normal_range h.1 h.2⟩)))
  · exact .inr (.inr (.inr (.inr (.inl ⟨h, narrowCase_of_overflow_range h.1 h.2⟩))))
  · exact .inr (.inr (.inr (.inr (.inr ⟨h, h ▸ rfl⟩))))

end

/-- Settles O22: the ranges exclude one another, so each case has its own. -/
theorem narrowCaseByExponentRange : Obligations.NarrowCaseByExponentRange := by
  intro e32 hle
  unfold rebias
  rcases narrowCase_ranges hle with ⟨h, hc⟩ | ⟨h, hc⟩ | ⟨h, hc⟩ | ⟨h, hc⟩ | ⟨h, hc⟩ | ⟨h, hc⟩ <;>
    simp only [hc, reduceCtorEq, false_iff, true_iff, false_implies, true_implies, true_and, and_true] <;>
    omega

/-! ### Ranges of magnitudes -/

section
variable {f : SingleWord} {x : Rat} (hx : val32 f = some (.finite x))
include hx

theorem le_exp32_iff {c : Rat} {e : Nat} (hc : c = (patternUnits 23 (e * 2 ^ 23) : Rat) / 2 ^ 149) :
    e ≤ exp32 f ↔ c ≤ |x| := by
  have hm : man32 f < 8388608 := man32_lt f
  rw [le_abs_iff32 hx hc, magnitude32_eq]
  omega

theorem exp32_lt_iff {c : Rat} {e : Nat} (hc : c = (patternUnits 23 (e * 2 ^ 23) : Rat) / 2 ^ 149) :
    exp32 f < e ↔ |x| < c := by
  rw [← not_le, le_exp32_iff hx hc, not_le]

end

/-- Settles O30: 65536 and 2^-25 are the values with exponent fields 143 and 102 and mantissa 0. -/
theorem overflowAndUnderflowCasesByMagnitude : Obligations.OverflowAndUnderflowCasesByMagnitude := by
  intro f x hx
  have hfinite : exp32 f < 255 := exp32_lt_of_finite hx
  obtain ⟨-, hunderflow, -, -, hoverflow, -⟩ := narrowCaseByExponentRange (exp32 f) (by omega)
  rw [hunderflow, hoverflow, ← le_exp32_iff hx (e := 143) (by norm_num [patternUnits]),
    ← exp32_lt_iff hx (e := 102) (by norm_num [patternUnits])]
  omega

/-- The magnitude of a finite binary32 with the implicit leading 1, its exponent counted from the last bit. -/
theorem finiteMagnitude32_of_significand {e : Nat} (he : e ≠ 0) (m : Nat) :
    finiteMagnitude32 e m = ((2 ^ 23 + m : Nat) : Rat) * 2 ^ ((e : Int) - 112 - 38) := by
  have hscale : (2 : Rat) ^ ((e : Int) - 127) = 2 ^ 23 * 2 ^ ((e : Int) - 112 - 38) := by
    rw [← zpow_natCast, ← zpow_add₀ two_ne_zero]
    congr 1
    push_cast
    ring
  rw [finiteMagnitude32, if_neg he, hscale]
  push_cast
  ring

/-- Settles O38: the scaling of the significand, and 2^-26, 2^-25 and 2^-24 as the values with exponent fields 101,
102 and 103 and mantissa 0. -/
theorem subnormalShiftBoundIsExact : Obligations.SubnormalShiftBoundIsExact := by
  intro f x hx
  refine ⟨fun hlow hhigh => ?_, fun he => ?_, fun he => ?_⟩
  · have hmagnitude : |x| = ((2 ^ 23 + man32 f : Nat) : Rat) * 2 ^ ((exp32 f : Int) - 112 - 38) := by
      rw [(abs_of_val32 hx).2, finiteMagnitude32_of_significand (by omega)]
    have hshift : (2 : Rat) ^ ((exp32 f : Int) - 112 - 38) * 2 ^ 24 = ((2 : Rat) ^ (126 - exp32 f))⁻¹ := by
      rw [← zpow_natCast, ← zpow_natCast, ← zpow_neg, ← zpow_add₀ two_ne_zero]
      congr 1
      omega
    exact ⟨hmagnitude, by rw [hmagnitude, mul_assoc, hshift, div_eq_mul_inv]⟩
  · rw [← le_exp32_iff hx (e := 102) (by norm_num [patternUnits]),
      ← exp32_lt_iff hx (e := 103) (by norm_num [patternUnits])]
    omega
  · rw [← le_exp32_iff hx (e := 101) (by norm_num [patternUnits]),
      ← exp32_lt_iff hx (e := 102) (by norm_num [patternUnits])]
    omega

end Sys2Proof.Machine
end

section
/-! Widening case by case (41_widen.md R63 to R68): the result word of each case, the source's algorithm, and the
properties that follow from the fields of the result. -/

namespace Sys2Proof.Machine

/-! ### What `TOFLOAT32` completes with -/

section
variable {h : HalfWord} {s : State} {mag : Nat}

theorem widenAnswers_widen (i : BitVec 16) (h : HalfWord) (hp : s.powered = true) :
    WidenAnswers s i h (widen h) :=
  ⟨_, exec_toFloat32_powered i h hp, rfl, rfl⟩

theorem widen_eq_ofNat (hmag : widenMag (exp16 h) (man16 h) = mag) :
    widen h = BitVec.ofNat 32 (sign16 h * 2 ^ 31 + mag) := by
  rw [← hmag, ← widen_toNat, BitVec.ofNat_toNat, BitVec.setWidth_eq]

/-- The result is the input's sign above the magnitude of its fields. -/
theorem widenAnswers_of_widenMag (i : BitVec 16) (hp : s.powered = true)
    (hmag : widenMag (exp16 h) (man16 h) = mag) :
    WidenAnswers s i h (BitVec.ofNat 32 (sign16 h * 2 ^ 31 + mag)) :=
  widen_eq_ofNat hmag ▸ widenAnswers_widen i h hp

end

/-- Settles O39: exponent field 1 to 30 is neither of the two special ones. -/
theorem widenOfNormalized : Obligations.WidenOfNormalized := by
  intro i h s hp hlow hhigh
  rw [add_assoc]
  exact widenAnswers_of_widenMag i hp (widenMag_normalized (by omega) (by omega) (man16_lt h))

/-! ### The quiet bit -/

theorem quietBit16_eq (h : HalfWord) : h.getLsbD 9 = decide (man16 h / 2 ^ 9 % 2 = 1) := by
  rw [BitVec.getLsbD, Nat.testBit_eq_decide_div_mod_eq, man16_eq]
  congr 2
  omega

theorem quietBit32_eq (f : SingleWord) : f.getLsbD 22 = decide (man32 f / 2 ^ 22 % 2 = 1) := by
  rw [BitVec.getLsbD, Nat.testBit_eq_decide_div_mod_eq, man32_eq]
  congr 2
  omega

/-- The top mantissa bit of an infinity or NaN stays the top mantissa bit. -/
theorem quietBit32_widen {h : HalfWord} (he : exp16 h = 31) : (widen h).getLsbD 22 = h.getLsbD 9 := by
  rw [quietBit16_eq, quietBit32_eq, (fields32_widen_of_infOrNan he).2]
  congr 2
  omega

/-- An infinity widens to an infinity and a NaN to a NaN. -/
theorem category32_widen_of_infOrNan {h : HalfWord} (he : exp16 h = 31) :
    category32 (widen h) = category16 h := by
  obtain ⟨hexp, hman⟩ := fields32_widen_of_infOrNan he
  rw [category32, category16, hexp, hman, he]
  by_cases hm : man16 h = 0
  · rw [hm, zero_mul]; rfl
  · rw [categoryOf_eq_nan_iff.mpr ⟨rfl, hm⟩, categoryOf_eq_nan_iff.mpr ⟨rfl, by omega⟩]

/-- Settles O40: exponent field 255, the mantissa shifted, and with it the quiet bit. -/
theorem widenOfInfinityAndNaN : Obligations.WidenOfInfinityAndNaN := by
  intro i h s hp he
  have hcategory : category32 (widen h) = category16 h := category32_widen_of_infOrNan he
  have hquiet : (widen h).getLsbD 22 = h.getLsbD 9 := quietBit32_widen he
  refine ⟨?_, ?_, ?_⟩
  · rw [add_assoc]
    exact widenAnswers_of_widenMag i hp (by rw [he, widenMag_infOrNan (man16_lt h)])
  · rw [isSignallingNaN32, isSignallingNaN16, hcategory, hquiet]
  · rw [isQuietNaN32, isQuietNaN16, hcategory, hquiet]

/-- Settles O41: magnitude 0, so the result is one of two words, by the sign bit. -/
theorem widenOfZero : Obligations.WidenOfZero := by
  intro i h s hp he hm
  have hanswers := widenAnswers_of_widenMag (mag := 0) i hp (by rw [he, hm, widenMag_zero])
  rw [sign16_eq_toNat_getLsbD] at hanswers
  cases hbit : h.getLsbD 15 <;> rw [hbit] at hanswers <;> exact hanswers

/-! ### Subnormal inputs -/

/-- The leading one of a number is the power of two it lies at or above and below the next of. -/
theorem msbIndex_eq {v p : Nat} (hlow : 2 ^ p ≤ v) (hhigh : v < 2 ^ (p + 1)) : msbIndex v = p := by
  have hv : v ≠ 0 := (lt_of_lt_of_le (by positivity) hlow).ne'
  exact (Nat.log2_eq_iff hv).mpr ⟨hlow, hhigh⟩

/-- Dropping the leading one and moving the bits below it to the top of the mantissa field (R66). -/
theorem normalizedMantissa_eq_sub {m : Nat} (hz : m ≠ 0) (hm : m < 1024) :
    m * 2 ^ (23 - msbIndex m) % 2 ^ 23 = (m - 2 ^ msbIndex m) * 2 ^ (23 - msbIndex m) := by
  have hp : msbIndex m ≤ 9 := msbIndex_le_nine hz hm
  have hone : 2 ^ msbIndex m * 2 ^ (23 - msbIndex m) = 2 ^ 23 := by rw [← pow_add]; congr 1; omega
  have hrestored := normalizedMantissa_eq hz hm
  rw [Nat.sub_mul, hone]
  omega

theorem category32_widen_of_subnormal {h : HalfWord} (he : exp16 h = 0) (hm : man16 h ≠ 0) :
    category32 (widen h) = .normalized := by
  have hp : msbIndex (man16 h) ≤ 9 := msbIndex_le_nine hm (man16_lt h)
  rw [category32, categoryOf_eq_normalized_iff, (fields32_widen_of_subnormal he hm).1]
  omega

/-- Settles O42: the statement's `p` is the index of the mantissa's leading one. -/
theorem widenOfSubnormal : Obligations.WidenOfSubnormal := by
  intro i h s p hp he hlow hhigh
  have hindex : msbIndex (man16 h) = p := msbIndex_eq hlow hhigh
  subst hindex
  have hm : man16 h ≠ 0 := by
    intro hzero
    rw [hzero] at hlow
    exact absurd hlow (by decide)
  refine ⟨msbIndex_le_nine hm (man16_lt h), ?_, category32_widen_of_subnormal he hm⟩
  rw [add_assoc]
  exact widenAnswers_of_widenMag i hp
    (by rw [he, widenMag_subnormal hm, normalizedMantissa_eq_sub hm (man16_lt h)])

/-! ### The source's algorithm (R62) -/

/-- Masking with a run of `len` ones at bit `lo` keeps that field in its place. -/
theorem and_field_eq (x lo len : Nat) : x &&& ((2 ^ len - 1) <<< lo) = x / 2 ^ lo % 2 ^ len * 2 ^ lo := by
  have hmask : (2 ^ len - 1) <<< lo = (2 ^ len - 1) * 2 ^ lo := Nat.shiftLeft_eq _ _
  have hhigh : (x &&& ((2 ^ len - 1) <<< lo)) / 2 ^ lo = x / 2 ^ lo % 2 ^ len := by
    rw [Nat.and_div_two_pow, hmask, Nat.mul_div_cancel _ (by positivity), Nat.and_two_pow_sub_one_eq_mod]
  have hlow : (x &&& ((2 ^ len - 1) <<< lo)) % 2 ^ lo = 0 := by
    rw [Nat.and_mod_two_pow, hmask, Nat.mul_mod_left, Nat.and_zero]
  rw [← hhigh, Nat.div_mul_cancel (Nat.dvd_of_mod_eq_zero hlow)]

/-- The source's shifted word: the magnitude of the input, 13 bits up. -/
theorem sourceShifted_eq (h : HalfWord) : (h.toNat &&& 0x7FFF) <<< 13 = magnitude16 h * 2 ^ 13 := by
  rw [show (0x7FFF : Nat) = 2 ^ 15 - 1 from rfl, Nat.and_two_pow_sub_one_eq_mod, Nat.shiftLeft_eq, magnitude16]

/-- The source's captured exponent, still in the place of the shifted word. -/
theorem sourceExponent_eq (h : HalfWord) :
    magnitude16 h * 2 ^ 13 &&& (0x7C00 <<< 13) = exp16 h * 2 ^ 23 := by
  have he : exp16 h < 32 := exp16_lt h
  have hm : man16 h < 1024 := man16_lt h
  have hmagnitude : magnitude16 h = exp16 h * 2 ^ 10 + man16 h := magnitude16_eq h
  rw [show (0x7C00 <<< 13 : Nat) = (2 ^ 5 - 1) <<< 23 from rfl, and_field_eq]
  omega

theorem sourceSign_eq (h : HalfWord) : (h.toNat &&& 0x8000) <<< 16 = sign16 h <<< 31 := by
  have hb := h.isLt
  rw [show (0x8000 : Nat) = (2 ^ 1 - 1) <<< 15 from rfl, and_field_eq, sign16_eq, Nat.shiftLeft_eq, Nat.shiftLeft_eq]
  omega

/-- The source's algorithm on the fields of its input: the sign above one of three adjusted magnitudes. -/
theorem widenSource_eq (h : HalfWord) :
    widenSource h = withSign32 (sign16 h)
      (if exp16 h = 31 then magnitude16 h * 2 ^ 13 + 112 * 2 ^ 23 + 112 * 2 ^ 23
        else if exp16 h = 0 then fsub32 (magnitude16 h * 2 ^ 13 + 112 * 2 ^ 23 + 2 ^ 23) (113 * 2 ^ 23)
        else magnitude16 h * 2 ^ 13 + 112 * 2 ^ 23) := by
  have hmax : exp16 h * 2 ^ 23 = 0x7C00 <<< 13 ↔ exp16 h = 31 := by
    rw [show (0x7C00 <<< 13 : Nat) = 31 * 2 ^ 23 from rfl]; omega
  have hzero : exp16 h * 2 ^ 23 = 0 ↔ exp16 h = 0 := by omega
  simp only [widenSource, withSign32, sourceShifted_eq, sourceExponent_eq, sourceSign_eq, hmax, hzero,
    Nat.or_comm (sign16 h <<< 31)]
  rfl

/-- The units of a binary32 word with exponent field 113, which is what the source subtracts and subtracts from. -/
theorem unitsOf32_of_exponent_113 {m : Nat} (hm : m < 2 ^ 23) :
    unitsOf32 (113 * 2 ^ 23 + m) = (2 ^ 23 + m) * 2 ^ 112 := by
  have hexp : (113 * 2 ^ 23 + m) >>> 23 &&& 0xFF = 113 := by
    rw [show (0xFF : Nat) = 2 ^ 8 - 1 from rfl, Nat.and_two_pow_sub_one_eq_mod, Nat.shiftRight_eq_div_pow]
    omega
  have hman : (113 * 2 ^ 23 + m) &&& 0x7FFFFF = m := by
    rw [show (0x7FFFFF : Nat) = 2 ^ 23 - 1 from rfl, Nat.and_two_pow_sub_one_eq_mod]
    omega
  rw [unitsOf32, hexp, hman, if_neg (by decide), implicitOne_or hm, Nat.shiftLeft_eq]

/-- Encoding a number of units of binary16's smallest subnormal normalizes it. -/
theorem encodeUnits32_scaled {m : Nat} (hz : m ≠ 0) (hm : m < 1024) :
    encodeUnits32 (m * 2 ^ 125) = (msbIndex m + 103) * 2 ^ 23 + m * 2 ^ (23 - msbIndex m) % 2 ^ 23 := by
  obtain ⟨hlow, hhigh⟩ := msbIndex_spec hz
  have hp : msbIndex m ≤ 9 := msbIndex_le_nine hz hm
  have hindex : msbIndex (m * 2 ^ 125) = msbIndex m + 125 := by
    apply msbIndex_eq
    · rw [pow_add]; exact Nat.mul_le_mul_right _ hlow
    · rw [add_right_comm, pow_add]; exact Nat.mul_lt_mul_of_pos_right hhigh (by positivity)
  have hshift : (m * 2 ^ 125) >>> (msbIndex m + 102) = m * 2 ^ (23 - msbIndex m) := by
    have hsplit : m * 2 ^ 125 = m * 2 ^ (23 - msbIndex m) * 2 ^ (msbIndex m + 102) := by
      rw [mul_assoc, ← pow_add]; congr 2; omega
    rw [Nat.shiftRight_eq_div_pow, hsplit, Nat.mul_div_cancel _ (by positivity)]
  have hman : m * 2 ^ (23 - msbIndex m) &&& 0x7FFFFF = m * 2 ^ (23 - msbIndex m) % 2 ^ 23 := by
    rw [show (0x7FFFFF : Nat) = 2 ^ 23 - 1 from rfl, Nat.and_two_pow_sub_one_eq_mod]
  rw [encodeUnits32, if_neg (by omega), hindex, show msbIndex m + 125 - 23 = msbIndex m + 102 by omega, hshift,
    hman, shiftLeft_or_eq _ (Nat.mod_lt _ (by positivity)), show msbIndex m + 125 - 22 = msbIndex m + 103 by omega]

/-- R65, R66: the float subtraction takes the restored leading 1 away again, exactly. -/
theorem fsub32_eq_widenMag {m : Nat} (hm : m < 1024) :
    fsub32 (m * 2 ^ 13 + 112 * 2 ^ 23 + 2 ^ 23) (113 * 2 ^ 23) = widenMag 0 m := by
  have hminuend : m * 2 ^ 13 + 112 * 2 ^ 23 + 2 ^ 23 = 113 * 2 ^ 23 + m * 2 ^ 13 := by ring
  have hsubtrahend : unitsOf32 (113 * 2 ^ 23) = 2 ^ 23 * 2 ^ 112 := by
    have hunits := unitsOf32_of_exponent_113 (m := 0) (by positivity)
    rwa [add_zero, add_zero] at hunits
  have hdifference : (2 ^ 23 + m * 2 ^ 13) * 2 ^ 112 - 2 ^ 23 * 2 ^ 112 = m * 2 ^ 125 := by omega
  rw [fsub32, hminuend, unitsOf32_of_exponent_113 (by omega), hsubtrahend, hdifference]
  by_cases hz : m = 0
  · rw [hz, zero_mul]; rfl
  · rw [encodeUnits32_scaled hz hm, widenMag_subnormal hz]

theorem widenSource_eq_widen (h : HalfWord) : widenSource h = widen h := by
  have hm : man16 h < 1024 := man16_lt h
  have hmagnitude : magnitude16 h = exp16 h * 2 ^ 10 + man16 h := magnitude16_eq h
  rw [widenSource_eq, widen]
  apply congrArg (withSign32 (sign16 h))
  by_cases hmax : exp16 h = 31
  · rw [if_pos hmax, hmagnitude, hmax, widenMag_infOrNan hm]
    ring
  by_cases hzero : exp16 h = 0
  · rw [if_neg hmax, if_pos hzero, hmagnitude, hzero, zero_mul, zero_add, fsub32_eq_widenMag hm]
  · rw [if_neg hmax, if_neg hzero, hmagnitude, widenMag_normalized hzero hmax hm]
    ring

/-- Settles O43: the two algorithms answer the same word. -/
theorem widenEqualsTheSourceAlgorithm : Obligations.WidenEqualsTheSourceAlgorithm := by
  intro i h s hp
  rw [widenSource_eq_widen]
  exact widenAnswers_widen i h hp

/-! ### Properties of the result (R68) -/

/-- Settles O44: the value and the sign of a widened word. -/
theorem widenIsExact : Obligations.WidenIsExact := fun h => ⟨val32_widen h, sign32_widen h⟩

theorem exp32_widen_eq_zero_iff (h : HalfWord) : exp32 (widen h) = 0 ↔ category16 h = .zero := by
  rw [category16, categoryOf_eq_zero_iff]
  by_cases hmax : exp16 h = 31
  · have := (fields32_widen_of_infOrNan hmax).1
    omega
  by_cases hzero : exp16 h = 0
  · by_cases hm : man16 h = 0
    · have := (fields32_widen_of_zero hzero hm).1
      omega
    · have := (fields32_widen_of_subnormal hzero hm).1
      omega
  · have := (fields32_widen_of_normalized hzero hmax).1
    omega

theorem exp32_widen_eq_max_iff (h : HalfWord) : exp32 (widen h) = 255 ↔ exp16 h = 31 :=
  ⟨fun he => by_contra fun hfinite => (finiteMagnitude32_widen hfinite).1 he,
    fun he => (fields32_widen_of_infOrNan he).1⟩

/-- Settles O47: exponent field 0 comes from a zero alone, whose mantissa field is 0. -/
theorem widenNeverGivesASubnormal : Obligations.WidenNeverGivesASubnormal := by
  intro h
  refine ⟨fun hsubnormal => ?_, exp32_widen_eq_zero_iff h, ?_⟩
  · obtain ⟨-, hexp, hman⟩ := categoryOf_eq_subnormal_iff.mp hsubnormal
    obtain ⟨-, he, hm⟩ := categoryOf_eq_zero_iff.mp ((exp32_widen_eq_zero_iff h).mp hexp)
    exact hman (fields32_widen_of_zero he hm).2
  · rw [exp32_widen_eq_max_iff, category16, categoryOf_eq_infinity_iff, categoryOf_eq_nan_iff]
    omega

/-- A finite input and its widened word denote the same number of binary32's units. -/
theorem patternUnits_widen {h : HalfWord} (he : exp16 h ≠ 31) :
    patternUnits 23 (magnitude32 (widen h)) = patternUnits 10 (magnitude16 h) * 2 ^ 125 := by
  have hmagnitude := (finiteMagnitude32_widen he).2
  rw [finiteMagnitude32_eq_units, finiteMagnitude16_eq_units] at hmagnitude
  have hscaled : (patternUnits 23 (magnitude32 (widen h)) : Rat) = patternUnits 10 (magnitude16 h) * 2 ^ 125 := by
    rw [div_eq_div_iff (by positivity) (by positivity)] at hmagnitude
    linarith
  exact_mod_cast hscaled

theorem halfWord_ext {h k : HalfWord} (hsign : sign16 h = sign16 k) (hmagnitude : magnitude16 h = magnitude16 k) :
    h = k := by
  apply BitVec.eq_of_toNat_eq
  rw [sign16_eq, sign16_eq] at hsign
  unfold magnitude16 at hmagnitude
  omega

/-- Settles O46: the sign is kept, a finite magnitude is its units, and the rest keep their payload. -/
theorem widenIsInjective : Obligations.WidenIsInjective := by
  intro h k hwiden
  apply halfWord_ext
  · rw [← sign32_widen, ← sign32_widen, hwiden]
  by_cases hmax : exp16 h = 31
  · have hmax' : exp16 k = 31 := by rwa [← exp32_widen_eq_max_iff, ← hwiden, exp32_widen_eq_max_iff]
    have hman := (fields32_widen_of_infOrNan hmax).2
    have hman' := (fields32_widen_of_infOrNan hmax').2
    rw [hwiden] at hman
    rw [magnitude16_eq, magnitude16_eq]
    omega
  · have hmax' : exp16 k ≠ 31 := by rwa [ne_eq, ← exp32_widen_eq_max_iff, ← hwiden, exp32_widen_eq_max_iff]
    have hunits := patternUnits_widen hmax
    rw [hwiden, patternUnits_widen hmax', Nat.mul_left_inj (by positivity), patternUnits_inj] at hunits
    exact hunits.symm

end Sys2Proof.Machine
end

section
/-! Rounding as a threshold (40_narrow.md R54, R57): the magnitude that `NARROW` answers is above a binary16 pattern
exactly when the input is past the midpoint between that pattern and the next, or at it with the tie broken upward. -/

namespace Sys2Proof.Machine

/-! ### Rounding a number by dropping bits -/

/-- `N` with its last `j + 1` bits rounded away (R54). -/
def roundShift (mode : TieMode) (j N : Nat) : Nat :=
  N / 2 ^ (j + 1) +
    if mode = .tiesAway then N / 2 ^ j % 2
    else if N / 2 ^ j % 2 = 1 ∧ (N % 2 ^ j ≠ 0 ∨ N / 2 ^ (j + 1) % 2 = 1) then 1 else 0

/-- What rounds above `w`: a number beyond the midpoint `mid`, and the midpoint itself when its tie goes up. -/
def RoundsAbove (mode : TieMode) (w mid a : Nat) : Prop :=
  mid < a ∨ mid = a ∧ (mode = .tiesAway ∨ w % 2 = 1)

theorem roundsAbove_of_lt {mode : TieMode} {w mid a : Nat} (h : mid < a) : RoundsAbove mode w mid a := .inl h

theorem not_roundsAbove_of_lt {mode : TieMode} {w mid a : Nat} (h : a < mid) : ¬ RoundsAbove mode w mid a := by
  unfold RoundsAbove; omega

theorem RoundsAbove.mono {mode : TieMode} {w mid a b : Nat} (h : RoundsAbove mode w mid a) (hab : a ≤ b) :
    RoundsAbove mode w mid b := by
  unfold RoundsAbove at *
  rcases h with h | ⟨h, htie⟩
  · exact .inl (by omega)
  · rcases Nat.lt_or_eq_of_le hab with hlt | heq
    · exact .inl (by omega)
    · exact .inr ⟨by omega, htie⟩

/-- Only the order of the number and the midpoint matters. -/
theorem roundsAbove_map {g : Nat → Nat} (hg : StrictMono g) {mode : TieMode} {w mid a : Nat} :
    RoundsAbove mode w (g mid) (g a) ↔ RoundsAbove mode w mid a := by
  rw [RoundsAbove, RoundsAbove, hg.lt_iff_lt, hg.injective.eq_iff]

/-- A multiple of `P` against a number, by the number's quotient and remainder. -/
theorem mul_compare {c N P : Nat} (hP : 0 < P) :
    (c * P < N ↔ c < N / P ∨ c = N / P ∧ N % P ≠ 0) ∧ (c * P = N ↔ c = N / P ∧ N % P = 0) := by
  have hN : N / P * P + N % P = N := Nat.div_add_mod' N P
  have hrem : N % P < P := Nat.mod_lt N hP
  generalize N / P = d at *
  generalize N % P = s at *
  rcases lt_trichotomy c d with h | h | h
  · have : (c + 1) * P ≤ d * P := Nat.mul_le_mul_right P h
    rw [add_mul] at this
    omega
  · subst h; omega
  · have : (d + 1) * P ≤ c * P := Nat.mul_le_mul_right P h
    rw [add_mul] at this
    omega

theorem lt_roundShift_iff (mode : TieMode) (j w N : Nat) :
    w < roundShift mode j N ↔ RoundsAbove mode w ((2 * w + 1) * 2 ^ j) N := by
  obtain ⟨hlt, heq⟩ := mul_compare (c := 2 * w + 1) (N := N) (P := 2 ^ j) (by positivity)
  have hquotient : N / 2 ^ (j + 1) = N / 2 ^ j / 2 := by rw [pow_succ, Nat.div_div_eq_div_mul]
  rw [RoundsAbove, hlt, heq, roundShift, hquotient]
  cases mode with
  | tiesAway => simp only [if_true, true_or, and_true]; omega
  | tiesEven => simp only [reduceCtorEq, if_false, false_or]; split_ifs <;> omega

/-- Where the tie modes part: at a midpoint above an even pattern, and by one unit. -/
theorem roundShift_tieModes (j N : Nat) :
    roundShift .tiesAway j N = roundShift .tiesEven j N + if N % 2 ^ (j + 2) = 2 ^ j then 1 else 0 := by
  have hP : 0 < 2 ^ j := by positivity
  have hrem : N % 2 ^ (j + 2) = N % 2 ^ j + 2 ^ j * (N / 2 ^ j % 4) := by rw [pow_add]; exact Nat.mod_mul
  have hlow : N % 2 ^ j < 2 ^ j := Nat.mod_lt N hP
  have hquotient : N / 2 ^ (j + 1) = N / 2 ^ j / 2 := by rw [pow_succ, Nat.div_div_eq_div_mul]
  have htie : N % 2 ^ (j + 2) = 2 ^ j ↔ N / 2 ^ j % 4 = 1 ∧ N % 2 ^ j = 0 := by
    rw [hrem]
    have hfour : N / 2 ^ j % 4 < 4 := Nat.mod_lt _ (by omega)
    generalize N / 2 ^ j % 4 = d at *
    interval_cases d <;> omega
  simp only [roundShift, hquotient, htie, if_true, reduceCtorEq, if_false]
  split_ifs <;> omega

/-! ### Midpoints -/

/-- The midpoint between a binary16 pattern and the next, in units of 2^-25; `0x7C00` counts as 2^16 (R57). -/
def midUnits (w : Nat) : Nat := patternUnits 10 w + patternUnits 10 (w + 1)

theorem midUnits_mono {v w : Nat} (h : v ≤ w) : midUnits v ≤ midUnits w :=
  Nat.add_le_add (patternUnits_le_iff.mpr h) (patternUnits_le_iff.mpr (by omega))

theorem midUnits_of_subnormal {w : Nat} (h : w < 0x400) : midUnits w = 2 * w + 1 := by
  rw [midUnits, patternUnits_of_lt h, patternUnits_of_le h]
  ring

/-- The midpoint above a normalized binary16 is the binary32 with the round bit alone set below its mantissa. -/
theorem midUnits_of_normalized {w : Nat} (h : 0x400 ≤ w) :
    midUnits w * 2 ^ 124 = patternUnits 23 ((2 * w + 1) * 2 ^ 12 + 112 * 2 ^ 23) := by
  obtain hlt | ⟨e, m, hm, rfl⟩ := pattern_cases 10 w
  · omega
  · have hpattern : (2 * ((e + 1) * 2 ^ 10 + m) + 1) * 2 ^ 12 + 112 * 2 ^ 23 =
        (e + 112 + 1) * 2 ^ 23 + (2 * m + 1) * 2 ^ 12 := by ring
    rw [midUnits, patternUnits_of_exponent e hm, patternUnits_succ_of_exponent e hm, hpattern,
      patternUnits_of_exponent (e + 112) (by omega)]
    ring

/-! ### The magnitude of `NARROW` -/

/-- The magnitude of `NARROW` from the magnitude of its input. -/
def narrowPattern (mode : TieMode) (n : Nat) : Nat := narrowMag mode (n / 2 ^ 23) (n % 2 ^ 23)

section
variable (mode : TieMode) {n w : Nat}

theorem narrowPattern_of_underflow (h : n < 102 * 2 ^ 23) : narrowPattern mode n = 0 := by
  rcases Nat.eq_zero_or_pos (n / 2 ^ 23) with h0 | h1
  · rw [narrowPattern, h0, narrowMag_of_zeroOrSubnormalIn]
  · exact narrowMag_of_underflowToZero _ _ (narrowCase_of_underflow_range h1 (by omega))

theorem narrowPattern_of_subnormal (hlow : 102 * 2 ^ 23 ≤ n) (hhigh : n < 113 * 2 ^ 23) :
    narrowPattern mode n = roundShift mode (125 - n / 2 ^ 23) (2 ^ 23 + n % 2 ^ 23) := by
  have hshift : ((125 - n / 2 ^ 23 + 1 : Nat) : Int) = 14 - rebias (n / 2 ^ 23) := by unfold rebias; omega
  rw [narrowPattern,
    narrowMag_of_subnormalOut mode _ hshift (narrowCase_of_subnormal_range (by omega) (by omega)),
    roundRetained_subnormalRetained mode _ (Nat.mod_lt n (by positivity))]
  rfl

theorem narrowPattern_of_normal (hlow : 113 * 2 ^ 23 ≤ n) (hhigh : n < 143 * 2 ^ 23) :
    narrowPattern mode n = roundShift mode 12 (n - 112 * 2 ^ 23) := by
  have hexp : ((n / 2 ^ 23 - 112 : Nat) : Int) = rebias (n / 2 ^ 23) := by unfold rebias; omega
  have ht : (n - 112 * 2 ^ 23) / 2 ^ 13 = (n / 2 ^ 23 - 112) * 2 ^ 10 + n % 2 ^ 23 / 2 ^ 13 := by omega
  have hrb : (n - 112 * 2 ^ 23) / 2 ^ 12 % 2 = n % 2 ^ 23 / 2 ^ 12 % 2 := by omega
  have hsticky : (n - 112 * 2 ^ 23) % 2 ^ 12 = n % 2 ^ 23 % 2 ^ 12 := by omega
  have hlsb : (n - 112 * 2 ^ 23) / 2 ^ 13 % 2 = n % 2 ^ 23 / 2 ^ 13 % 2 := by omega
  rw [narrowPattern, narrowMag_of_normalOut mode _ hexp (narrowCase_of_normal_range (by omega) (by omega)),
    roundRetained_normalRetained mode _ (Nat.mod_lt n (by positivity)), roundShift, hlsb, ht, hrb, hsticky]

theorem narrowPattern_of_overflow (hlow : 143 * 2 ^ 23 ≤ n) (hhigh : n ≤ 0x7F800000) :
    narrowPattern mode n = 0x7C00 := by
  rcases Nat.lt_or_eq_of_le hhigh with h | h
  · exact narrowMag_of_overflow mode _ (narrowCase_of_overflow_range (by omega) (by omega))
  · rw [h]
    exact narrowMag_of_infinity mode

/-- R55: rounding in the subnormal range stops at `0x0400`. -/
theorem narrowPattern_le_of_subnormal (hhigh : n < 113 * 2 ^ 23) : narrowPattern mode n ≤ 0x400 := by
  rcases Nat.lt_or_ge n (102 * 2 ^ 23) with hlow | hlow
  · rw [narrowPattern_of_underflow mode hlow]; omega
  · have hretained : (2 ^ 23 + n % 2 ^ 23) / 2 ^ (125 - n / 2 ^ 23 + 1) ≤ 0x3FF :=
      significand_div_le (Nat.mod_lt n (by positivity)) (by omega)
    rw [narrowPattern_of_subnormal mode hlow hhigh, roundShift]
    split_ifs <;> omega

/-- R55: rounding stops at `0x7C00`. -/
theorem narrowPattern_le (hn : n ≤ 0x7F800000) : narrowPattern mode n ≤ 0x7C00 := by
  rcases Nat.lt_or_ge n (113 * 2 ^ 23) with hlow | hlow
  · exact (narrowPattern_le_of_subnormal mode hlow).trans (by omega)
  rcases Nat.lt_or_ge n (143 * 2 ^ 23) with hhigh | hhigh
  · rw [narrowPattern_of_normal mode hlow hhigh, ← not_lt, lt_roundShift_iff]
    exact not_roundsAbove_of_lt (by omega)
  · rw [narrowPattern_of_overflow mode hhigh hn]

/-- The units of a pattern in the subnormal range of `NARROW`. -/
theorem patternUnits_eq_shifted (hlow : 102 * 2 ^ 23 ≤ n) :
    patternUnits 23 n = (2 ^ 23 + n % 2 ^ 23) * 2 ^ (n / 2 ^ 23 - 1) := by
  rw [patternUnits, if_neg (by omega)]

theorem lt_narrowPattern_iff_of_underflow (h : n < 102 * 2 ^ 23) :
    w < narrowPattern mode n ↔ RoundsAbove mode w (midUnits w * 2 ^ 124) (patternUnits 23 n) := by
  have hunits : patternUnits 23 n < patternUnits 23 (102 * 2 ^ 23) := patternUnits_lt_iff.mpr h
  have hbound : patternUnits 23 (102 * 2 ^ 23) = 2 ^ 124 := by norm_num [patternUnits]
  have hmid : midUnits 0 ≤ midUnits w := midUnits_mono (Nat.zero_le w)
  have hone : midUnits 0 = 1 := rfl
  rw [narrowPattern_of_underflow mode h]
  exact iff_of_false (Nat.not_lt_zero w) (not_roundsAbove_of_lt (by omega))

theorem lt_narrowPattern_iff_of_subnormal (hlow : 102 * 2 ^ 23 ≤ n) (hhigh : n < 113 * 2 ^ 23) :
    w < narrowPattern mode n ↔ RoundsAbove mode w (midUnits w * 2 ^ 124) (patternUnits 23 n) := by
  rcases Nat.lt_or_ge w 0x400 with hw | hw
  · have hscale : (2 * w + 1) * 2 ^ 124 = (2 * w + 1) * 2 ^ (125 - n / 2 ^ 23) * 2 ^ (n / 2 ^ 23 - 1) := by
      rw [mul_assoc, ← pow_add]; congr 2; omega
    rw [narrowPattern_of_subnormal mode hlow hhigh, lt_roundShift_iff, midUnits_of_subnormal hw,
      patternUnits_eq_shifted hlow, hscale]
    exact (roundsAbove_map (g := (· * 2 ^ (n / 2 ^ 23 - 1)))
      (fun _ _ h => Nat.mul_lt_mul_of_pos_right h (by positivity))).symm
  · have hunits : patternUnits 23 n < patternUnits 23 (113 * 2 ^ 23) := patternUnits_lt_iff.mpr hhigh
    have hbound : patternUnits 23 (113 * 2 ^ 23) = 2 ^ 135 := by norm_num [patternUnits]
    have hmid : midUnits 0x400 ≤ midUnits w := midUnits_mono hw
    have hfirst : midUnits 0x400 = 2049 := rfl
    have hle : narrowPattern mode n ≤ 0x400 := narrowPattern_le_of_subnormal mode hhigh
    exact iff_of_false (by omega) (not_roundsAbove_of_lt (by omega))

theorem lt_narrowPattern_iff_of_normal (hlow : 113 * 2 ^ 23 ≤ n) (hhigh : n < 143 * 2 ^ 23) :
    w < narrowPattern mode n ↔ RoundsAbove mode w (midUnits w * 2 ^ 124) (patternUnits 23 n) := by
  rw [narrowPattern_of_normal mode hlow hhigh, lt_roundShift_iff]
  rcases Nat.lt_or_ge w 0x400 with hw | hw
  · have hunits : patternUnits 23 (113 * 2 ^ 23) ≤ patternUnits 23 n := patternUnits_le_iff.mpr hlow
    have hbound : patternUnits 23 (113 * 2 ^ 23) = 2 ^ 135 := by norm_num [patternUnits]
    have hmid : midUnits w = 2 * w + 1 := midUnits_of_subnormal hw
    exact iff_of_true (roundsAbove_of_lt (by omega)) (roundsAbove_of_lt (by omega))
  · obtain ⟨N, rfl⟩ : ∃ N, n = N + 112 * 2 ^ 23 := ⟨n - 112 * 2 ^ 23, by omega⟩
    rw [midUnits_of_normalized hw, roundsAbove_map (patternUnits_strictMono 23), Nat.add_sub_cancel]
    exact (roundsAbove_map (g := (· + 112 * 2 ^ 23)) (fun _ _ h => Nat.add_lt_add_right h _)).symm

theorem lt_narrowPattern_iff_of_overflow (hlow : 143 * 2 ^ 23 ≤ n) (hn : n ≤ 0x7F800000) (hw : w < 0x7C00) :
    w < narrowPattern mode n ↔ RoundsAbove mode w (midUnits w * 2 ^ 124) (patternUnits 23 n) := by
  have hunits : patternUnits 23 (143 * 2 ^ 23) ≤ patternUnits 23 n := patternUnits_le_iff.mpr hlow
  have hbound : patternUnits 23 (143 * 2 ^ 23) = 2 ^ 165 := by norm_num [patternUnits]
  have hmid : midUnits w ≤ midUnits 0x7BFF := midUnits_mono (by omega)
  have hlast : midUnits 0x7BFF = 65520 * 2 ^ 25 := rfl
  rw [narrowPattern_of_overflow mode hlow hn]
  exact iff_of_true hw (roundsAbove_of_lt (by omega))

/-- R57: the result is above a pattern exactly for an input past the midpoint to the next pattern, or at it with the
tie going up. -/
theorem lt_narrowPattern_iff (hn : n ≤ 0x7F800000) (hw : w < 0x7C00) :
    w < narrowPattern mode n ↔ RoundsAbove mode w (midUnits w * 2 ^ 124) (patternUnits 23 n) := by
  rcases Nat.lt_or_ge n (102 * 2 ^ 23) with h102 | h102
  · exact lt_narrowPattern_iff_of_underflow mode h102
  rcases Nat.lt_or_ge n (113 * 2 ^ 23) with h113 | h113
  · exact lt_narrowPattern_iff_of_subnormal mode h102 h113
  rcases Nat.lt_or_ge n (143 * 2 ^ 23) with h143 | h143
  · exact lt_narrowPattern_iff_of_normal mode h113 h143
  · exact lt_narrowPattern_iff_of_overflow mode h143 hn hw

end

end Sys2Proof.Machine
end

section
/-! What the rounding threshold says of `NARROW` (40_narrow.md R54, R55, R57, R58; 41_widen.md R68; 60_exceptions.md
R71): bounds, the two tie modes, thresholds, monotony, nearest candidates and the round trip after `WIDEN`. -/

namespace Sys2Proof.Machine

/-! ### The word in terms of its magnitude -/

theorem sign16_narrow (mode : TieMode) (f : SingleWord) : sign16 (narrow mode f) = sign32 f :=
  sign16_withSign16 (sign32_lt f) (narrowMag_lt mode (man32_lt f))

theorem exp32_eq_magnitude (f : SingleWord) : exp32 f = magnitude32 f / 2 ^ 23 := by
  have hm : man32 f < 8388608 := man32_lt f
  rw [magnitude32_eq]; omega

theorem man32_eq_magnitude (f : SingleWord) : man32 f = magnitude32 f % 2 ^ 23 := by
  have hm : man32 f < 8388608 := man32_lt f
  rw [magnitude32_eq]; omega

theorem narrowMag_eq_narrowPattern (mode : TieMode) (f : SingleWord) :
    narrowMag mode (exp32 f) (man32 f) = narrowPattern mode (magnitude32 f) := by
  rw [narrowPattern, ← exp32_eq_magnitude, ← man32_eq_magnitude]

theorem narrow_toNat_eq (mode : TieMode) (f : SingleWord) :
    (narrow mode f).toNat = sign32 f * 2 ^ 15 + narrowPattern mode (magnitude32 f) := by
  rw [narrow_toNat, narrowMag_eq_narrowPattern]

theorem magnitude16_narrow (mode : TieMode) (f : SingleWord) :
    magnitude16 (narrow mode f) = narrowPattern mode (magnitude32 f) := by
  have hlt : narrowMag mode (exp32 f) (man32 f) < 2 ^ 15 := narrowMag_lt mode (man32_lt f)
  rw [narrowMag_eq_narrowPattern] at hlt
  rw [magnitude16, narrow_toNat_eq]
  omega

theorem magnitude32_of_exp32_le {f : SingleWord} (h : exp32 f ≤ 254) : magnitude32 f < 0x7F800000 := by
  have hm : man32 f < 8388608 := man32_lt f
  rw [magnitude32_eq]; omega

theorem magnitude32_lt_of_finite {f : SingleWord} {x : Rat} (hx : val32 f = some (.finite x)) :
    magnitude32 f < 0x7F800000 :=
  magnitude32_of_exp32_le (Nat.le_of_lt_succ (exp32_lt_of_finite hx))

/-- Settles O31: the two bounds of `narrowPattern`, the second of which is below every NaN. -/
theorem roundingCarryIsBounded : Obligations.RoundingCarryIsBounded := by
  intro mode f
  have hmagnitude : (narrow mode f).toNat % 2 ^ 15 = narrowPattern mode (magnitude32 f) :=
    magnitude16_narrow mode f
  refine ⟨fun h => ?_, fun h => ?_, fun h => ?_⟩
  · rw [exp32_eq_magnitude] at h
    rw [hmagnitude]
    exact narrowPattern_le_of_subnormal mode (by omega)
  · rw [hmagnitude]
    exact narrowPattern_le mode (magnitude32_of_exp32_le h).le
  · rw [ne_eq, category32_eq_nan_iff, not_lt] at h
    rw [ne_eq, category16_eq_nan_iff, not_lt, magnitude16_narrow]
    exact narrowPattern_le mode h

/-! ### The two tie modes -/

/-- The inputs on which the tie modes part: exact ties with an even retained field (R54). -/
def EvenTie (n : Nat) : Prop :=
  (113 ≤ n / 2 ^ 23 ∧ n / 2 ^ 23 ≤ 142 ∧ n % 2 ^ 23 % 2 ^ 14 = 2 ^ 12) ∨
  (102 ≤ n / 2 ^ 23 ∧ n / 2 ^ 23 ≤ 112 ∧
    (2 ^ 23 + n % 2 ^ 23) % 2 ^ (127 - n / 2 ^ 23) = 2 ^ (125 - n / 2 ^ 23))

theorem narrowPattern_of_nan (mode : TieMode) {n : Nat} (hnan : 0x7F800000 < n) (hn : n < 2 ^ 31) :
    narrowPattern mode n = 0x7E00 := by
  rw [narrowPattern, show n / 2 ^ 23 = 255 by omega, narrowMag_of_nan mode (by omega)]

theorem narrowPattern_tieModes {n : Nat} (hn : n < 2 ^ 31) :
    (EvenTie n ∧ narrowPattern .tiesAway n = narrowPattern .tiesEven n + 1) ∨
    (¬ EvenTie n ∧ narrowPattern .tiesAway n = narrowPattern .tiesEven n) := by
  unfold EvenTie
  rcases Nat.lt_or_ge n (102 * 2 ^ 23) with h102 | h102
  · rw [narrowPattern_of_underflow _ h102, narrowPattern_of_underflow _ h102]
    omega
  rcases Nat.lt_or_ge n (113 * 2 ^ 23) with h113 | h113
  · have hwidth : 125 - n / 2 ^ 23 + 2 = 127 - n / 2 ^ 23 := by omega
    rw [narrowPattern_of_subnormal _ h102 h113, narrowPattern_of_subnormal _ h102 h113, roundShift_tieModes, hwidth]
    split_ifs with htie <;> omega
  rcases Nat.lt_or_ge n (143 * 2 ^ 23) with h143 | h143
  · have hwindow : (n - 112 * 2 ^ 23) % 2 ^ (12 + 2) = n % 2 ^ 23 % 2 ^ 14 := by omega
    rw [narrowPattern_of_normal _ h113 h143, narrowPattern_of_normal _ h113 h143, roundShift_tieModes, hwindow]
    split_ifs with htie <;> omega
  refine .inr ⟨by omega, ?_⟩
  rcases Nat.lt_or_ge 0x7F800000 n with hnan | hle
  · rw [narrowPattern_of_nan _ hnan hn, narrowPattern_of_nan _ hnan hn]
  · rw [narrowPattern_of_overflow _ h143 hle, narrowPattern_of_overflow _ h143 hle]

/-- Settles O32: from `narrowPattern_tieModes`, the sign being the same under both modes. -/
theorem tieModesDifferExactlyOnEvenTies : Obligations.TieModesDifferExactlyOnEvenTies := by
  intro f
  have hn : magnitude32 f < 2 ^ 31 := by
    have he : exp32 f < 256 := exp32_lt f
    have hm : man32 f < 8388608 := man32_lt f
    rw [magnitude32_eq]; omega
  have haway := narrow_toNat_eq .tiesAway f
  have heven := narrow_toNat_eq .tiesEven f
  rw [exp32_eq_magnitude, man32_eq_magnitude, ne_eq, BitVec.toNat_eq]
  rcases narrowPattern_tieModes hn with ⟨htie, hpart⟩ | ⟨htie, hsame⟩
  · exact ⟨iff_of_true (by omega) htie, fun _ => by omega⟩
  · exact ⟨iff_of_false (by omega) htie, fun hne => absurd (by omega) hne⟩

/-! ### Thresholds -/

/-- The smallest magnitude that narrows above `w` when the midpoint above `w` is the binary32 pattern `a`. -/
theorem lt_narrowPattern_iff_of_boundary (mode : TieMode) {n w a : Nat} (hn : n ≤ 0x7F800000) (hw : w < 0x7C00)
    (ha : patternUnits 23 a = midUnits w * 2 ^ 124) :
    w < narrowPattern mode n ↔ a + (if mode = .tiesAway ∨ w % 2 = 1 then 0 else 1) ≤ n := by
  rw [lt_narrowPattern_iff mode hn hw, ← ha, roundsAbove_map (patternUnits_strictMono 23), RoundsAbove]
  split_ifs with htie
  · rw [and_iff_left htie, add_zero, le_iff_lt_or_eq]
  · rw [eq_false htie, and_false, or_false]
    rfl

/-- A row of R58's boundary table: an output, and the pattern of the midpoint below it, which reaches that output
under `TIES_AWAY`, and under `TIES_EVEN` when the output is even. -/
def isBoundaryRow (row : Nat × Nat × Nat) : Bool :=
  0 < row.1 ∧ row.1 ≤ 0x7C00 ∧ patternUnits 23 row.2.1 = midUnits (row.1 - 1) * 2 ^ 124 ∧
    row.2.2 = row.2.1 + row.1 % 2

theorem narrow_toNat_of_nonneg (mode : TieMode) {g : SingleWord} (hg : g.toNat ≤ 0x7F800000) :
    (narrow mode g).toNat = narrowPattern mode g.toNat := by
  have hsign : sign32 g = 0 := by rw [sign32_eq]; omega
  have hmagnitude : magnitude32 g = g.toNat := by
    rw [magnitude32, show (0x7FFFFFFF : Nat) = 2 ^ 31 - 1 from rfl, Nat.and_two_pow_sub_one_eq_mod]
    omega
  rw [narrow_toNat_eq, hsign, hmagnitude, zero_mul, zero_add]

/-- Settles O37: all twelve rows name the midpoint below their output. -/
theorem narrowBoundaryInputs : Obligations.NarrowBoundaryInputs := by
  rintro ⟨v, a, e⟩ hrow g hg
  have hcheck : isBoundaryRow (v, a, e) = true := by
    revert hrow
    generalize (v, a, e) = row
    revert row
    decide
  simp only [isBoundaryRow, decide_eq_true_eq] at hcheck
  obtain ⟨hpos, hle, hmid, rfl⟩ := hcheck
  obtain ⟨w, rfl⟩ : ∃ w, v = w + 1 := ⟨v - 1, by omega⟩
  have hw : w < 0x7C00 := hle
  rw [narrow_toNat_of_nonneg _ hg, narrow_toNat_of_nonneg _ hg]
  refine ⟨(lt_narrowPattern_iff_of_boundary .tiesAway hg hw hmid).trans ?_,
    (lt_narrowPattern_iff_of_boundary .tiesEven hg hw hmid).trans ?_⟩
  · rw [if_pos (.inl rfl), add_zero]
  · simp only [reduceCtorEq, false_or]
    split_ifs <;> omega

/-- 65520 is the midpoint between the largest finite binary16 and 2^16, and its tie goes up under both modes. -/
theorem narrowPattern_eq_infinity_iff (mode : TieMode) {n : Nat} (hn : n ≤ 0x7F800000) :
    narrowPattern mode n = 0x7C00 ↔ 0x477FF000 ≤ n := by
  have hle : narrowPattern mode n ≤ 0x7C00 := narrowPattern_le mode hn
  have hmid : patternUnits 23 0x477FF000 = midUnits 0x7BFF * 2 ^ 124 := by norm_num [patternUnits, midUnits]
  have hbound := lt_narrowPattern_iff_of_boundary mode hn (w := 0x7BFF) (by omega) hmid
  rw [if_pos (.inr rfl), add_zero] at hbound
  omega

/-- 2^-25 is the midpoint between 0 and the smallest subnormal; its tie goes up under `TIES_AWAY` alone. -/
theorem narrowPattern_eq_zero_iff (mode : TieMode) {n : Nat} (hn : n ≤ 0x7F800000) :
    narrowPattern mode n = 0 ↔ if mode = .tiesAway then n < 0x33000000 else n ≤ 0x33000000 := by
  have hmid : patternUnits 23 0x33000000 = midUnits 0 * 2 ^ 124 := by norm_num [patternUnits, midUnits]
  have hbound := lt_narrowPattern_iff_of_boundary mode hn (w := 0) (by omega) hmid
  cases mode with
  | tiesAway =>
    rw [if_pos (.inl rfl)] at hbound
    rw [if_pos rfl]
    omega
  | tiesEven =>
    rw [if_neg (by decide)] at hbound
    rw [if_neg (by decide)]
    omega

/-- Settles O35: 65520 and 2^-25 are the values of the two boundary patterns. -/
theorem narrowInfinityAndZeroThresholds : Obligations.NarrowInfinityAndZeroThresholds := by
  intro f x hx
  have hn : magnitude32 f ≤ 0x7F800000 := (magnitude32_lt_of_finite hx).le
  have hunits : (1 : Rat) / 2 ^ 25 = (patternUnits 23 0x33000000 : Rat) / 2 ^ 149 := by norm_num [patternUnits]
  refine ⟨fun mode => ?_, ?_, ?_⟩
  · rw [category16_eq_infinity_iff, magnitude16_narrow, narrowPattern_eq_infinity_iff mode hn,
      le_abs_iff32 hx (n := 0x477FF000) (by norm_num [patternUnits])]
  · rw [category16_eq_zero_iff, magnitude16_narrow, narrowPattern_eq_zero_iff _ hn, if_pos rfl,
      abs_lt_iff32 hx hunits]
  · rw [category16_eq_zero_iff, magnitude16_narrow, narrowPattern_eq_zero_iff _ hn, if_neg (by decide),
      abs_le_iff32 hx hunits]

/-! ### Monotone and odd -/

theorem narrowPattern_mono (mode : TieMode) {m n : Nat} (hmn : m ≤ n) (hn : n ≤ 0x7F800000) :
    narrowPattern mode m ≤ narrowPattern mode n := by
  refine le_of_forall_lt fun w hw => ?_
  have hlt : w < 0x7C00 := lt_of_lt_of_le hw (narrowPattern_le mode (hmn.trans hn))
  rw [lt_narrowPattern_iff mode (hmn.trans hn) hlt] at hw
  rw [lt_narrowPattern_iff mode hn hlt]
  exact hw.mono (patternUnits_le_iff.mpr hmn)

/-- Flipping the top bit of a word of `k + 1` bits. -/
theorem xor_topBit {n k : Nat} (hn : n < 2 ^ (k + 1)) :
    (n ^^^ 2 ^ k) % 2 ^ k = n % 2 ^ k ∧ (n ^^^ 2 ^ k) / 2 ^ k = 1 - n / 2 ^ k := by
  constructor
  · rw [Nat.xor_mod_two_pow, Nat.mod_self, Nat.xor_zero]
  · have hbit : n / 2 ^ k < 2 := by rwa [Nat.div_lt_iff_lt_mul (by positivity), ← pow_succ']
    rw [Nat.xor_div_two_pow, Nat.div_self (by positivity)]
    generalize n / 2 ^ k = b at *
    interval_cases b <;> rfl

theorem sign32_xor (f : SingleWord) : sign32 (f ^^^ 0x80000000) = 1 - sign32 f := by
  rw [sign32_eq, sign32_eq]
  exact (xor_topBit (k := 31) f.isLt).2

theorem magnitude32_xor (f : SingleWord) : magnitude32 (f ^^^ 0x80000000) = magnitude32 f := by
  rw [magnitude32, magnitude32, show (0x7FFFFFFF : Nat) = 2 ^ 31 - 1 from rfl, Nat.and_two_pow_sub_one_eq_mod,
    Nat.and_two_pow_sub_one_eq_mod]
  exact (xor_topBit (k := 31) f.isLt).1

theorem sign16_xor (h : HalfWord) : sign16 (h ^^^ 0x8000) = 1 - sign16 h := by
  rw [sign16_eq, sign16_eq]
  exact (xor_topBit (k := 15) h.isLt).2

theorem magnitude16_xor (h : HalfWord) : magnitude16 (h ^^^ 0x8000) = magnitude16 h :=
  (xor_topBit (k := 15) h.isLt).1

/-- Settles O36: the magnitude grows with the input's, and the sign bit is apart from it. -/
theorem narrowIsMonotoneAndOdd : Obligations.NarrowIsMonotoneAndOdd := by
  refine ⟨fun mode f g hfg hg => ?_, fun mode f => halfWord_ext ?_ ?_⟩
  · rw [narrow_toNat_of_nonneg mode (hfg.trans hg), narrow_toNat_of_nonneg mode hg]
    exact narrowPattern_mono mode hfg hg
  · rw [sign16_xor, sign16_narrow, sign16_narrow, sign32_xor]
  · rw [magnitude16_xor, magnitude16_narrow, magnitude16_narrow, magnitude32_xor]

end Sys2Proof.Machine
end

section
/-! Nearest candidates (40_narrow.md R57): the candidate set is the grid of binary16 magnitudes with 2^16 at its end,
and the rounding threshold puts the result at the grid point nearest to the input. -/

namespace Sys2Proof.Machine

/-- The candidate that a binary16 magnitude pattern up to `0x7C00` stands for, `0x7C00` itself for 2^16. -/
def gridValue (v : Nat) : Rat := (patternUnits 10 v : Rat) / 2 ^ 24

theorem gridValue_strictMono : StrictMono gridValue := fun _ _ h => units_lt_iff.mpr (patternUnits_lt_iff.mpr h)

theorem gridValue_zero : gridValue 0 = 0 := by norm_num [gridValue, patternUnits]

theorem gridValue_infinity : gridValue 0x7C00 = 2 ^ 16 := by norm_num [gridValue, patternUnits]

/-! ### Candidates -/

theorem exists_gridValue_of_candidate {d : Rat} (hd : RoundingCandidate d) : ∃ v ≤ 0x7C00, d = gridValue v := by
  rcases hd with rfl | ⟨h, hh, hpos⟩ | rfl
  · exact ⟨0, by omega, gridValue_zero.symm⟩
  · have habs := abs_eq_units16 hh
    rw [abs_of_pos hpos] at habs
    exact ⟨magnitude16 h, (magnitude16_lt_of_finite hh).le, habs⟩
  · exact ⟨0x7C00, le_rfl, gridValue_infinity.symm⟩

theorem candidate_gridValue {v : Nat} (hv : v ≤ 0x7C00) : RoundingCandidate (gridValue v) := by
  rcases Nat.eq_zero_or_pos v with rfl | hpos
  · exact .inl gridValue_zero
  rcases Nat.lt_or_eq_of_le hv with hlt | rfl
  · have hmagnitude : magnitude16 (BitVec.ofNat 16 v) = v := by
      rw [magnitude16, BitVec.toNat_ofNat]; omega
    have hsign : sign16 (BitVec.ofNat 16 v) = 0 := by
      rw [sign16_eq, BitVec.toNat_ofNat]; omega
    have he : exp16 (BitVec.ofNat 16 v) ≠ 31 := by
      rw [exp16_eq, BitVec.toNat_ofNat]; omega
    have hvalue := val16_of_units hsign he
    rw [hmagnitude] at hvalue
    exact .inr (.inl ⟨_, hvalue, gridValue_zero ▸ gridValue_strictMono hpos⟩)
  · exact .inr (.inr gridValue_infinity)

theorem candidateOf_eq_gridValue {h : HalfWord} (hle : magnitude16 h ≤ 0x7C00) :
    candidateOf h = gridValue (magnitude16 h) := by
  have hmagnitude : magnitude16 h = exp16 h * 2 ^ 10 + man16 h := magnitude16_eq h
  by_cases he : exp16 h = 31
  · have hm : man16 h = 0 := by omega
    rw [show magnitude16 h = 0x7C00 by omega, gridValue_infinity, candidateOf, val16_of_infinite he hm]
  · have hvalue := val16_of_finite he
    have habs := abs_eq_units16 hvalue
    rw [candidateOf, hvalue]
    exact habs

/-! ### Nearest -/

/-- A point at or past the midpoint is nearer the upper end, and as near the lower end at the midpoint alone. -/
theorem nearer_upper {x c d : Rat} (hdc : d ≤ c) (hmid : (d + c) / 2 ≤ x) :
    |x - c| ≤ |x - d| ∧ (|x - c| = |x - d| → d = c ∨ (d + c) / 2 = x) := by
  have hd : |x - d| = x - d := abs_of_nonneg (by linarith)
  rw [hd]
  rcases abs_cases (x - c) with ⟨hc, -⟩ | ⟨hc, -⟩ <;> rw [hc]
  · exact ⟨by linarith, fun _ => .inl (by linarith)⟩
  · exact ⟨by linarith, fun _ => .inr (by linarith)⟩

/-- A point at or before the midpoint is nearer the lower end, and as near the upper end at the midpoint alone. -/
theorem nearer_lower {x c d : Rat} (hcd : c ≤ d) (hmid : x ≤ (c + d) / 2) :
    |x - c| ≤ |x - d| ∧ (|x - c| = |x - d| → d = c ∨ (c + d) / 2 = x) := by
  have hd : |x - d| = d - x := by rw [abs_of_nonpos (by linarith)]; ring
  rw [hd]
  rcases abs_cases (x - c) with ⟨hc, -⟩ | ⟨hc, -⟩ <;> rw [hc]
  · exact ⟨by linarith, fun _ => .inr (by linarith)⟩
  · exact ⟨by linarith, fun _ => .inl (by linarith)⟩

section
variable {mode : TieMode} {f : SingleWord} {x : Rat} (hx : val32 f = some (.finite x))
include hx

/-- The rounding threshold in values. -/
theorem lt_narrowPattern_iff_midpoint {w : Nat} (hw : w < 0x7C00) :
    w < narrowPattern mode (magnitude32 f) ↔
      (gridValue w + gridValue (w + 1)) / 2 < |x| ∨
        (gridValue w + gridValue (w + 1)) / 2 = |x| ∧ (mode = .tiesAway ∨ w % 2 = 1) := by
  have hmid : (gridValue w + gridValue (w + 1)) / 2 = ((midUnits w * 2 ^ 124 : Nat) : Rat) / 2 ^ 149 := by
    rw [gridValue, gridValue, midUnits]
    push_cast
    ring
  have heq : ∀ a b : Nat, (a : Rat) / 2 ^ 149 = b / 2 ^ 149 ↔ a = b := fun a b => by
    rw [div_left_inj' (by positivity), Nat.cast_inj]
  rw [lt_narrowPattern_iff mode (magnitude32_lt_of_finite hx).le hw, hmid, abs_eq_units32 hx, units_lt_iff, heq,
    RoundsAbove]

/-- R57: no grid point is nearer than the result, and one as near lies below it where ties go up, or above it where
they do not. -/
theorem narrowPattern_nearest {v : Nat} (hv : v ≤ 0x7C00) :
    |(|x| - gridValue (narrowPattern mode (magnitude32 f)))| ≤ |(|x| - gridValue v)| ∧
    (|(|x| - gridValue (narrowPattern mode (magnitude32 f)))| = |(|x| - gridValue v)| →
      v = narrowPattern mode (magnitude32 f) ∨
      v < narrowPattern mode (magnitude32 f) ∧
        (mode = .tiesAway ∨ narrowPattern mode (magnitude32 f) % 2 = 0) ∨
      mode ≠ .tiesAway ∧ narrowPattern mode (magnitude32 f) % 2 = 0) := by
  have hle : narrowPattern mode (magnitude32 f) ≤ 0x7C00 := narrowPattern_le mode (magnitude32_lt_of_finite hx).le
  have hthreshold := fun w hw => lt_narrowPattern_iff_midpoint (mode := mode) hx (w := w) hw
  generalize narrowPattern mode (magnitude32 f) = r at *
  rcases lt_trichotomy v r with hlt | rfl | hlt
  · obtain ⟨w, rfl⟩ : ∃ w, r = w + 1 := ⟨r - 1, by omega⟩
    have hvw : gridValue v ≤ gridValue w := gridValue_strictMono.monotone (by omega)
    have hstep : gridValue v < gridValue (w + 1) := gridValue_strictMono hlt
    have hpast := (hthreshold w (by omega)).mp (Nat.lt_succ_self w)
    have hmid : (gridValue w + gridValue (w + 1)) / 2 ≤ |x| := hpast.elim le_of_lt fun h => h.1.le
    obtain ⟨hnear, hequal⟩ := nearer_upper (x := |x|) (c := gridValue (w + 1)) hstep.le (by linarith)
    refine ⟨hnear, fun heq => .inr (.inl ⟨hlt, ?_⟩)⟩
    rcases hequal heq with h | h
    · exact absurd h hstep.ne
    · rcases hpast with hbeyond | ⟨-, htie⟩
      · linarith
      · exact htie.imp_right fun _ => by omega
  · exact ⟨le_rfl, fun _ => .inl rfl⟩
  · have hvr : gridValue (r + 1) ≤ gridValue v := gridValue_strictMono.monotone hlt
    have hstep : gridValue r < gridValue v := gridValue_strictMono hlt
    have hbefore := (hthreshold r (by omega)).not.mp (lt_irrefl r)
    push Not at hbefore
    obtain ⟨hmid, htie⟩ := hbefore
    obtain ⟨hnear, hequal⟩ := nearer_lower (x := |x|) (c := gridValue r) hstep.le (by linarith)
    refine ⟨hnear, fun heq => .inr (.inr ?_)⟩
    rcases hequal heq with h | h
    · exact absurd h hstep.ne'
    · obtain ⟨hmode, heven⟩ := htie (by linarith)
      exact ⟨hmode, by omega⟩

theorem category16_narrow_ne_nan : category16 (narrow mode f) ≠ .nan := by
  rw [ne_eq, category16_eq_nan_iff, not_lt, magnitude16_narrow]
  exact narrowPattern_le mode (magnitude32_lt_of_finite hx).le

theorem candidateOf_narrow :
    candidateOf (narrow mode f) = gridValue (narrowPattern mode (magnitude32 f)) := by
  rw [candidateOf_eq_gridValue, magnitude16_narrow]
  rw [magnitude16_narrow]
  exact narrowPattern_le mode (magnitude32_lt_of_finite hx).le

theorem candidate_narrow : RoundingCandidate (candidateOf (narrow mode f)) := by
  rw [candidateOf_narrow hx]
  exact candidate_gridValue (narrowPattern_le mode (magnitude32_lt_of_finite hx).le)

end

/-- Settles O33: a candidate as near as the result lies below it. -/
theorem narrowIsNearestTiesAway : Obligations.NarrowIsNearestTiesAway := by
  intro f x hx _
  refine ⟨sign16_narrow _ f, category16_narrow_ne_nan hx, candidate_narrow hx, fun d hd => ?_⟩
  obtain ⟨v, hv, rfl⟩ := exists_gridValue_of_candidate hd
  rw [candidateOf_narrow hx]
  obtain ⟨hnear, hequal⟩ := narrowPattern_nearest (mode := .tiesAway) hx hv
  refine ⟨hnear, fun heq => gridValue_strictMono.monotone ?_⟩
  rcases hequal heq with h | ⟨h, -⟩ | ⟨h, -⟩
  · exact h.le
  · exact h.le
  · exact absurd rfl h

/-- Settles O34: a candidate as near as the result is the result or finds it even. -/
theorem narrowIsNearestTiesEven : Obligations.NarrowIsNearestTiesEven := by
  intro f x hx _
  refine ⟨sign16_narrow _ f, category16_narrow_ne_nan hx, candidate_narrow hx, fun d hd => ?_⟩
  obtain ⟨v, hv, rfl⟩ := exists_gridValue_of_candidate hd
  have hman : man16 (narrow .tiesEven f) % 2 = narrowPattern .tiesEven (magnitude32 f) % 2 := by
    have hmagnitude := magnitude16_narrow .tiesEven f
    rw [magnitude16_eq] at hmagnitude
    omega
  rw [candidateOf_narrow hx, hman]
  obtain ⟨hnear, hequal⟩ := narrowPattern_nearest (mode := .tiesEven) hx hv
  refine ⟨hnear, fun heq => ?_⟩
  rcases hequal heq with h | ⟨-, h | h⟩ | ⟨-, h⟩
  · exact .inl (congrArg gridValue h)
  · cases h
  · exact .inr h
  · exact .inr h

end Sys2Proof.Machine
end

section
/-! The round trip after `WIDEN` (41_widen.md R68) and the IEEE conditions (60_exceptions.md R71): both turn on when
narrowing keeps the value it is given. -/

namespace Sys2Proof.Machine

/-! ### Narrowing a representable magnitude -/

/-- A magnitude that binary16 represents narrows to its own pattern. -/
theorem narrowPattern_of_representable (mode : TieMode) {n v : Nat} (hn : n ≤ 0x7F800000) (hv : v < 0x7C00)
    (hunits : patternUnits 23 n = patternUnits 10 v * 2 ^ 125) : narrowPattern mode n = v := by
  have hle : narrowPattern mode n ≤ 0x7C00 := narrowPattern_le mode hn
  have habove : ¬ v < narrowPattern mode n := by
    rw [lt_narrowPattern_iff mode hn hv]
    have hnext : patternUnits 10 v < patternUnits 10 (v + 1) := patternUnits_lt_succ 10 v
    exact not_roundsAbove_of_lt (by rw [hunits, midUnits]; omega)
  rcases Nat.eq_zero_or_pos v with rfl | hpos
  · omega
  obtain ⟨w, rfl⟩ : ∃ w, v = w + 1 := ⟨v - 1, by omega⟩
  have hbelow : w < narrowPattern mode n := by
    rw [lt_narrowPattern_iff mode hn (by omega)]
    have hnext : patternUnits 10 w < patternUnits 10 (w + 1) := patternUnits_lt_succ 10 w
    exact roundsAbove_of_lt (by rw [hunits, midUnits]; omega)
  omega

theorem magnitude32_widen_of_infOrNan {h : HalfWord} (he : exp16 h = 31) :
    magnitude32 (widen h) = 0x7F800000 + man16 h * 2 ^ 13 := by
  obtain ⟨hexp, hman⟩ := fields32_widen_of_infOrNan he
  rw [magnitude32_eq, hexp, hman]
  omega

/-- A NaN comes back with the mantissa of the sentinel. -/
theorem narrowPattern_widen_of_nan (mode : TieMode) {h : HalfWord} (he : exp16 h = 31) (hm : man16 h ≠ 0) :
    narrowPattern mode (magnitude32 (widen h)) = 0x7E00 := by
  have hlt : man16 h < 1024 := man16_lt h
  have hmagnitude := magnitude32_widen_of_infOrNan he
  exact narrowPattern_of_nan mode (by omega) (by omega)

/-- All but a NaN with another mantissa than the sentinel's comes back as it was. -/
theorem narrowPattern_widen (mode : TieMode) {h : HalfWord}
    (hback : exp16 h ≠ 31 ∨ man16 h = 0 ∨ man16 h = 0x200) :
    narrowPattern mode (magnitude32 (widen h)) = magnitude16 h := by
  have hmagnitude : magnitude16 h = exp16 h * 2 ^ 10 + man16 h := magnitude16_eq h
  have hm : man16 h < 1024 := man16_lt h
  by_cases he : exp16 h = 31
  · have hwide := magnitude32_widen_of_infOrNan he
    rcases hback with hne | hzero | hsentinel
    · exact absurd he hne
    · rw [narrowPattern_of_overflow mode (by omega) (by omega)]; omega
    · rw [narrowPattern_widen_of_nan mode he (by omega)]; omega
  · have hexp : exp16 h < 32 := exp16_lt h
    have hfinite : exp32 (widen h) ≠ 255 := (finiteMagnitude32_widen he).1
    have hrange : exp32 (widen h) < 256 := exp32_lt _
    exact narrowPattern_of_representable mode (magnitude32_of_exp32_le (by omega)).le (by omega)
      (patternUnits_widen he)

theorem narrow_widen (mode : TieMode) {h : HalfWord} (hback : exp16 h ≠ 31 ∨ man16 h = 0 ∨ man16 h = 0x200) :
    narrow mode (widen h) = h :=
  halfWord_ext (by rw [sign16_narrow, sign32_widen]) (by rw [magnitude16_narrow, narrowPattern_widen mode hback])

theorem narrow_eq_ofNat (mode : TieMode) (f : SingleWord) :
    narrow mode f = BitVec.ofNat 16 (sign32 f * 2 ^ 15 + narrowPattern mode (magnitude32 f)) := by
  rw [← narrow_toNat_eq, BitVec.ofNat_toNat, BitVec.setWidth_eq]

/-- Settles O48: the response `WIDEN` gives is narrowed to the word it came from, or to the sentinel. -/
theorem widenThenNarrowRoundTrip : Obligations.WidenThenNarrowRoundTrip := by
  intro i h s hp
  have hanswers := narrowAnswers_narrow (s := { s with
    f16In := some h, f32Out := some (widen h), response := some (widen h) }) (widen h) hp
  refine ⟨_, _, exec_toFloat32_powered i h hp, rfl, fun hback => ?_, fun ⟨he, hz, hne⟩ => ?_⟩
  · rwa [narrow_widen _ hback] at hanswers
  · have hword := narrow_eq_ofNat s.build.tieMode (widen h)
    rw [sign32_widen, narrowPattern_widen_of_nan _ he hz] at hword
    rw [← hword]
    refine ⟨hanswers, fun heq => hne ?_⟩
    have hmagnitude := congrArg magnitude16 heq
    rw [magnitude16_narrow, narrowPattern_widen_of_nan _ he hz, magnitude16_eq] at hmagnitude
    omega

/-! ### Overflow -/

theorem isFinite32_iff (f : SingleWord) : isFinite32 f = true ↔ exp32 f ≠ 255 := bne_iff_ne

theorem magnitude32_le_of_isFinite {f : SingleWord} (hf : isFinite32 f = true) : magnitude32 f ≤ 0x7F800000 := by
  have he : exp32 f < 256 := exp32_lt f
  rw [isFinite32_iff] at hf
  exact (magnitude32_of_exp32_le (by omega)).le

theorem narrowOverflows_iff (mode : TieMode) (f : SingleWord) :
    narrowOverflows f = true ↔ isFinite32 f = true ∧ category16 (narrow mode f) = .infinity := by
  rw [narrowOverflows, Bool.and_eq_true, decide_eq_true_eq]
  refine and_congr_right fun hf => ?_
  rw [category16_eq_infinity_iff, magnitude16_narrow,
    narrowPattern_eq_infinity_iff mode (magnitude32_le_of_isFinite hf)]

/-- Settles O56: 65520 is where the result becomes infinite, and the sign is copied. -/
theorem overflowShowsAsInfinity : Obligations.OverflowShowsAsInfinity := by
  refine fun mode f => ⟨narrowOverflows_iff mode f, fun hover => ?_⟩
  obtain ⟨-, hinfinite⟩ := (narrowOverflows_iff mode f).mp hover
  rw [category16_eq_infinity_iff, magnitude16_narrow] at hinfinite
  have hword := narrow_eq_ofNat mode f
  rw [hinfinite, sign32_eq_toNat_getLsbD] at hword
  cases hbit : f.getLsbD 31 <;> rw [hbit] at hword <;> exact hword

/-! ### Underflow -/

theorem exists_nonzero_value_iff (f : SingleWord) :
    (∃ x, val32 f = some (.finite x) ∧ x ≠ 0) ↔ isFinite32 f = true ∧ magnitude32 f ≠ 0 := by
  rw [isFinite32_iff]
  constructor
  · rintro ⟨x, hx, hne⟩
    exact ⟨(abs_of_val32 hx).1, mt (eq_zero_iff32 hx).mpr hne⟩
  · rintro ⟨hf, hne⟩
    exact ⟨_, val32_of_finite hf, mt (eq_zero_iff32 (val32_of_finite hf)).mp hne⟩

theorem exp16_eq_zero_iff (h : HalfWord) : exp16 h = 0 ↔ category16 h = .zero ∨ category16 h = .subnormal := by
  rw [category16, categoryOf_eq_zero_iff, categoryOf_eq_subnormal_iff]
  omega

/-- Settles O58: the predicate's three conjuncts, in terms of the value and the category. -/
theorem underflowShowsAsSubnormalOrZero : Obligations.UnderflowShowsAsSubnormalOrZero := by
  intro mode f
  rw [narrowArises, narrowUnderflows, exists_nonzero_value_iff, ← exp16_eq_zero_iff, Bool.and_eq_true,
    Bool.and_eq_true, bne_iff_ne, beq_iff_eq]

/-! ### Inexact -/

/-- Rounding bits away keeps the number exactly when they are zero. -/
theorem roundShift_exact_iff (mode : TieMode) (j N : Nat) :
    roundShift mode j N * 2 ^ (j + 1) = N ↔ N % 2 ^ (j + 1) = 0 := by
  constructor
  · intro h
    rw [← h, Nat.mul_mod_left]
  · intro h
    have hN : N / 2 ^ (j + 1) * 2 ^ (j + 1) = N := Nat.div_mul_cancel (Nat.dvd_of_mod_eq_zero h)
    have hround : N / 2 ^ j % 2 = 0 := by
      rw [← hN, pow_succ', ← mul_assoc, Nat.mul_div_cancel _ (by positivity), Nat.mul_mod_left]
    have hincrement : roundShift mode j N = N / 2 ^ (j + 1) := by simp [roundShift, hround]
    rw [hincrement, hN]

/-- The bits below the retained field are the round bit and the bits below it. -/
theorem rb_or_sticky_iff (j N : Nat) :
    (N / 2 ^ j % 2 = 1 ∨ N % 2 ^ j ≠ 0) ↔ N % 2 ^ (j + 1) ≠ 0 := by
  have hrem : N % 2 ^ (j + 1) = N % 2 ^ j + 2 ^ j * (N / 2 ^ j % 2) := by rw [pow_succ]; exact Nat.mod_mul
  have hP : 0 < 2 ^ j := by positivity
  rw [hrem]
  generalize 2 ^ j = P at *
  rcases Nat.mod_two_eq_zero_or_one (N / P) with h | h <;> rw [h] <;> omega

/-- A normalized binary16 is the binary32 with its mantissa extended by zeros. -/
theorem patternUnits10_of_normalized {v : Nat} (h : 0x400 ≤ v) :
    patternUnits 10 v * 2 ^ 125 = patternUnits 23 (v * 2 ^ 13 + 112 * 2 ^ 23) := by
  obtain hlt | ⟨e, m, hm, rfl⟩ := pattern_cases 10 v
  · omega
  · have hpattern : ((e + 1) * 2 ^ 10 + m) * 2 ^ 13 + 112 * 2 ^ 23 = (e + 112 + 1) * 2 ^ 23 + m * 2 ^ 13 := by ring
    rw [patternUnits_of_exponent e hm, hpattern, patternUnits_of_exponent (e + 112) (by omega)]
    ring

/-- Narrowing the magnitude `n` keeps its value: the result is finite and denotes the same number of units. -/
def KeepsValue (mode : TieMode) (n : Nat) : Prop :=
  narrowPattern mode n < 0x7C00 ∧ patternUnits 10 (narrowPattern mode n) * 2 ^ 125 = patternUnits 23 n

theorem keepsValue_iff_of_underflow (mode : TieMode) {n : Nat} (h : n < 102 * 2 ^ 23) :
    KeepsValue mode n ↔ n = 0 := by
  have hzero : patternUnits 23 0 = 0 := patternUnits_of_lt (by positivity)
  have hzero16 : patternUnits 10 0 = 0 := patternUnits_of_lt (by positivity)
  rw [KeepsValue, narrowPattern_of_underflow mode h, hzero16, zero_mul, ← hzero, patternUnits_inj]
  omega

theorem keepsValue_iff_of_subnormal (mode : TieMode) {n : Nat} (hlow : 102 * 2 ^ 23 ≤ n) (hhigh : n < 113 * 2 ^ 23) :
    KeepsValue mode n ↔ (2 ^ 23 + n % 2 ^ 23) % 2 ^ (125 - n / 2 ^ 23 + 1) = 0 := by
  have hle : narrowPattern mode n ≤ 0x400 := narrowPattern_le_of_subnormal mode hhigh
  have hscale : narrowPattern mode n * 2 ^ 125 =
      narrowPattern mode n * 2 ^ (125 - n / 2 ^ 23 + 1) * 2 ^ (n / 2 ^ 23 - 1) := by
    rw [mul_assoc, ← pow_add]; congr 2; omega
  rw [KeepsValue, patternUnits_of_le hle, patternUnits_eq_shifted hlow, hscale, Nat.mul_left_inj (by positivity),
    ← roundShift_exact_iff mode, narrowPattern_of_subnormal mode hlow hhigh]
  rw [narrowPattern_of_subnormal mode hlow hhigh] at hle
  exact and_iff_right (by omega)

theorem keepsValue_iff_of_normal (mode : TieMode) {n : Nat} (hlow : 113 * 2 ^ 23 ≤ n) (hhigh : n < 143 * 2 ^ 23) :
    KeepsValue mode n ↔ n % 2 ^ 23 % 2 ^ 13 = 0 := by
  have hexact := roundShift_exact_iff mode 12 (n - 112 * 2 ^ 23)
  have habove : 0x3FF < narrowPattern mode n := by
    rw [narrowPattern_of_normal mode hlow hhigh, lt_roundShift_iff]
    exact roundsAbove_of_lt (by omega)
  rw [← narrowPattern_of_normal mode hlow hhigh] at hexact
  rw [KeepsValue, patternUnits10_of_normalized habove, patternUnits_inj]
  omega

theorem not_keepsValue_of_overflow (mode : TieMode) {n : Nat} (hlow : 143 * 2 ^ 23 ≤ n) (hn : n ≤ 0x7F800000) :
    ¬ KeepsValue mode n := by
  rw [KeepsValue, narrowPattern_of_overflow mode hlow hn]
  omega

/-- The result denotes the finite input's value exactly when its magnitude does, the sign being copied. -/
theorem val16_narrow_eq_iff (mode : TieMode) {f : SingleWord} (hf : exp32 f ≠ 255) :
    val16 (narrow mode f) = val32 f ↔ KeepsValue mode (magnitude32 f) := by
  have hmagnitude : magnitude16 (narrow mode f) = narrowPattern mode (magnitude32 f) := magnitude16_narrow mode f
  rw [KeepsValue, ← hmagnitude, val32_of_finite hf]
  have hfields : magnitude16 (narrow mode f) = exp16 (narrow mode f) * 2 ^ 10 + man16 (narrow mode f) :=
    magnitude16_eq _
  have he : exp16 (narrow mode f) < 32 := exp16_lt _
  have hm : man16 (narrow mode f) < 1024 := man16_lt _
  by_cases hmax : exp16 (narrow mode f) = 31
  · refine iff_of_false ?_ (by omega)
    by_cases hz : man16 (narrow mode f) = 0
    · rw [val16_of_infinite hmax hz]; simp
    · rw [val16_of_nan hmax hz]; simp
  · have hsign : signFactor (sign32 f) ≠ 0 := by
      have habs := signFactor_abs (sign32 f)
      intro hzero
      rw [hzero] at habs
      norm_num at habs
    rw [val16_of_finite hmax, sign16_narrow, Option.some_inj, Value.finite.injEq, mul_right_inj' hsign,
      finiteMagnitude16_eq_units, finiteMagnitude32_eq_units, div_eq_div_iff (by positivity) (by positivity),
      and_iff_right (by omega)]
    constructor
    · intro h
      have hscaled : (patternUnits 10 (magnitude16 (narrow mode f)) : Rat) * 2 ^ 125 =
          patternUnits 23 (magnitude32 f) := by linarith
      exact_mod_cast hscaled
    · intro h
      have hscaled : (patternUnits 10 (magnitude16 (narrow mode f)) : Rat) * 2 ^ 125 =
          patternUnits 23 (magnitude32 f) := by exact_mod_cast h
      linarith

/-- The predicate of R71 says that the value is not kept, in each of the cases of a finite input. -/
theorem narrowIsInexact_iff (mode : TieMode) {f : SingleWord} (hf : exp32 f ≠ 255) :
    narrowIsInexact f = true ↔ ¬ KeepsValue mode (magnitude32 f) := by
  have he : exp32 f < 256 := exp32_lt f
  have hm : man32 f < 2 ^ 23 := man32_lt f
  have hexp : exp32 f = magnitude32 f / 2 ^ 23 := exp32_eq_magnitude f
  have hman : man32 f = magnitude32 f % 2 ^ 23 := man32_eq_magnitude f
  rcases narrowCase_ranges (Nat.le_of_lt_succ he) with ⟨h, hc⟩ | ⟨h, hc⟩ | ⟨h, hc⟩ | ⟨h, hc⟩ | ⟨h, hc⟩ | ⟨h, hc⟩
  · rw [narrowIsInexact, hc, keepsValue_iff_of_underflow mode (by omega)]
    simp only [bne_iff_ne]
    omega
  · rw [narrowIsInexact, hc, keepsValue_iff_of_underflow mode (by omega)]
    exact iff_of_true rfl (by omega)
  · have hshift : (14 - rebias (exp32 f)).toNat = 125 - exp32 f + 1 := by unfold rebias; omega
    rw [narrowIsInexact, hc, keepsValue_iff_of_subnormal mode (by omega) (by omega)]
    simp only [hshift, subnormalRetained_rb _ hm, subnormalRetained_sticky _ hm, Bool.or_eq_true, decide_eq_true_eq,
      Nat.add_sub_cancel, rb_or_sticky_iff]
    rw [hman, hexp]
  · rw [narrowIsInexact, hc, keepsValue_iff_of_normal mode (by omega) (by omega)]
    simp only [normalRetained_rb, normalRetained_sticky, Bool.or_eq_true, decide_eq_true_eq, rb_or_sticky_iff]
    rw [hman]
  · rw [narrowIsInexact, hc]
    exact iff_of_true rfl (not_keepsValue_of_overflow mode (by omega) (by omega))
  · exact absurd h hf

/-- Settles O57: a finite input is inexact when its value is not kept, and an infinity or NaN never is. -/
theorem inexactIsAChangeOfValue : Obligations.InexactIsAChangeOfValue := by
  intro mode f
  rw [narrowArises, isFinite32_iff]
  by_cases hf : exp32 f = 255
  · have hnever : narrowIsInexact f = false := by rw [narrowIsInexact, hf]; rfl
    rw [hnever]
    exact iff_of_false (by decide) fun h => h.1 hf
  · rw [and_iff_right hf, ne_eq, val16_narrow_eq_iff mode hf, narrowIsInexact_iff mode hf]

end Sys2Proof.Machine
end
